-- ==== Sys2Proof/Word.lean ====
section
/-!
DEFINITION. The words of the block and the shapes of the values its registers hold
(00_scope.md R10, R11, R13; 10_state.md R33).
-/

-- One elaboration thread: in the package read as one text, a thread for each theorem would reserve more
-- stack than the check has memory.
set_option Elab.async false

namespace Sys2Proof

/-- A byte of IOBUF (20_memory.md R84). -/
abbrev Byte := BitVec 8

/-- A limb, and a word of the host port and of IOBUF: 64 bits (00_scope.md R11). -/
abbrev Word := BitVec 64

/-- A command word: 32 bits (30_encoding.md R120). -/
abbrev Command := BitVec 32

/-- The raw Montgomery-form limbs of an element of FR: 4 limbs (10_state.md R33). -/
abbrev Fr := BitVec 256

/-- The raw Montgomery-form limbs of an element of FQ: 6 limbs (10_state.md R33). -/
abbrev Fq := BitVec 384

/-- An element `c0 + c1·u` of FQ2 (42_extension_tower.md R241). -/
structure Fq2 where
  c0 : Fq
  c1 : Fq
deriving DecidableEq, Repr

/-- An element `c0 + c1·v + c2·v²` of FQ6 (42_extension_tower.md R246; 90_conflicts.md C1). -/
structure Fq6 where
  c0 : Fq2
  c1 : Fq2
  c2 : Fq2
deriving DecidableEq, Repr

/-- An element `c0 + c1·w` of FQ12 (42_extension_tower.md R249). -/
structure Fq12 where
  c0 : Fq6
  c1 : Fq6
deriving DecidableEq, Repr

/-- A short-Weierstrass affine point `(x, y, inf)`; the flag is authoritative
(44_curve_group_law.md R321). -/
structure AffinePoint (K : Type) where
  x : K
  y : K
  inf : Bool
deriving DecidableEq, Repr

/-- A short-Weierstrass point in homogeneous coordinates `(X : Y : Z)`
(44_curve_group_law.md R322). -/
structure ProjPoint (K : Type) where
  x : K
  y : K
  z : K
deriving DecidableEq, Repr

/-- A twisted-Edwards affine point over FR; it carries no flag
(44_curve_group_law.md R324; 90_conflicts.md C8). -/
structure EdAffine where
  x : Fr
  y : Fr
deriving DecidableEq, Repr

/-- A twisted-Edwards point in extended coordinates `(X, Y, T, Z)`
(44_curve_group_law.md R323). -/
structure EdExtended where
  x : Fr
  y : Fr
  t : Fr
  z : Fr
deriving DecidableEq, Repr

end Sys2Proof
end

