-- ==== Sys2Proof/Syntax.lean ====
section
/-!
DEFINITION. The commands of the block: one constructor of `Instr` for each row of the opcode table
(30_encoding.md R126), the type codes (10_state.md R32) and the fault codes (60_exceptions.md R422).
-/

namespace Sys2Proof

/-- A register field: an unsigned 4-bit index naming V0 to V15 (30_encoding.md R124). -/
abbrev Reg := BitVec 4

/-- The sixteen 4-bit type codes (10_state.md R32, 30_encoding.md R123): the tag of a value register
and the T field of a command. Codes 13, 14 and 15 are reserved: no register holds one and no opcode
admits one. -/
inductive TCode where
  | empty
  | bool
  | fr
  | fq
  | fq2
  | fq6
  | fq12
  | g1a
  | g1p
  | g2a
  | g2p
  | eda
  | ede
  | reserved13
  | reserved14
  | reserved15
deriving DecidableEq, Repr

/-- The causes a command can fault for, in the order of their codes (60_exceptions.md R422). -/
inductive FaultCode where
  /-- OP is reserved. -/
  | illegalOpcode
  /-- A field reserved by the opcode's format is not zero. -/
  | reservedField
  /-- T is not admitted by the opcode. -/
  | illegalType
  /-- CONST with k > 1, CONST of a point type with k = 1, or FROB with i > 11. -/
  | illegalImm
  /-- LD, ST, LDM or STM past the last IOBUF word. -/
  | iobufRange
  /-- A source register is EMPTY. -/
  | emptyOperand
  /-- A source register holds a tag other than the required one. -/
  | typeMismatch
deriving DecidableEq, Repr

/-- A command with a defined OP and zero reserved fields (30_encoding.md R121, R122, R126). The type
code, the immediate and the word offset are held as the word has them: the checks on them are the
command's own (60_exceptions.md R425, steps 3 to 5). -/
inductive Instr where
  | nop
  | ld (t : TCode) (d : Reg) (off : BitVec 10)
  | st (t : TCode) (d : Reg) (off : BitVec 10)
  | ldm (t : TCode) (d : Reg) (off : BitVec 10)
  | stm (t : TCode) (d : Reg) (off : BitVec 10)
  | mov (t : TCode) (d a : Reg)
  | const (t : TCode) (d : Reg) (k : BitVec 10)
  | sel (t : TCode) (d a b c : Reg)
  | add (t : TCode) (d a b : Reg)
  | sub (t : TCode) (d a b : Reg)
  | dbl (t : TCode) (d a : Reg)
  | neg (t : TCode) (d a : Reg)
  | mul (t : TCode) (d a b : Reg)
  | sqr (t : TCode) (d a : Reg)
  | inv (t : TCode) (d a : Reg)
  | mred (t : TCode) (d a : Reg)
  | eq (t : TCode) (d a b : Reg)
  | iszero (t : TCode) (d a : Reg)
  | isone (t : TCode) (d a : Reg)
  | mulnr (t : TCode) (d a : Reg)
  | conj (t : TCode) (d a : Reg)
  | frob (t : TCode) (d a : Reg) (i : BitVec 10)
  | padd (t : TCode) (d a b : Reg)
  | pdbl (t : TCode) (d a : Reg)
  | pneg (t : TCode) (d a : Reg)
  | psmul (t : TCode) (d a b : Reg)
  | toproj (t : TCode) (d a : Reg)
  | toaff (t : TCode) (d a : Reg)
  | peq (t : TCode) (d a b : Reg)
  | isid (t : TCode) (d a : Reg)
  | oncurve (t : TCode) (d a : Reg)
deriving DecidableEq, Repr

end Sys2Proof
end

