-- ==== Sys2Proof/Machine/Types.lean ====
section
/-!
DEFINITION. The tables over type codes and fault codes: their numbers (10_state.md R32,
60_exceptions.md R422), the classes of types (30_encoding.md R127), the affine and projective tags
of a group (30_encoding.md R128) and the sizes in IOBUF words (40_data_movement.md R160).
-/

namespace Sys2Proof.Machine

/-- The 4-bit code of a type (10_state.md R32). -/
def typeBits : TCode → BitVec 4
  | .empty => 0
  | .bool => 1
  | .fr => 2
  | .fq => 3
  | .fq2 => 4
  | .fq6 => 5
  | .fq12 => 6
  | .g1a => 7
  | .g1p => 8
  | .g2a => 9
  | .g2p => 10
  | .eda => 11
  | .ede => 12
  | .reserved13 => 13
  | .reserved14 => 14
  | .reserved15 => 15

/-- The type of a 4-bit code (10_state.md R32). -/
def typeOfBits (b : BitVec 4) : TCode :=
  match b.toNat with
  | 0 => .empty
  | 1 => .bool
  | 2 => .fr
  | 3 => .fq
  | 4 => .fq2
  | 5 => .fq6
  | 6 => .fq12
  | 7 => .g1a
  | 8 => .g1p
  | 9 => .g2a
  | 10 => .g2p
  | 11 => .eda
  | 12 => .ede
  | 13 => .reserved13
  | 14 => .reserved14
  | _ => .reserved15

/-- The 8-bit code of a fault (60_exceptions.md R422). -/
def faultBits : FaultCode → BitVec 8
  | .illegalOpcode => 0x01
  | .reservedField => 0x02
  | .illegalType => 0x03
  | .illegalImm => 0x04
  | .iobufRange => 0x05
  | .emptyOperand => 0x06
  | .typeMismatch => 0x07

/-- FIELD (30_encoding.md R127). -/
def fieldTypes : List TCode := [.fr, .fq, .fq2, .fq6, .fq12]

/-- POINT (30_encoding.md R127). -/
def pointTypes : List TCode := [.g1a, .g1p, .g2a, .g2p, .eda, .ede]

/-- PROJ (30_encoding.md R127). -/
def projTypes : List TCode := [.g1p, .g2p, .ede]

/-- AFF (30_encoding.md R127). -/
def affTypes : List TCode := [.g1a, .g2a, .eda]

/-- ALL (30_encoding.md R127). -/
def allTypes : List TCode := .bool :: (fieldTypes ++ pointTypes)

/-- `aff(T)`: the affine tag of T's group (30_encoding.md R128); only used for T in PROJ. -/
def affOf : TCode → TCode
  | .g1p => .g1a
  | .g2p => .g2a
  | .ede => .eda
  | t => t

/-- `proj(T)`: the projective or extended tag of T's group (30_encoding.md R128); only used for T in
AFF. -/
def projOf : TCode → TCode
  | .g1a => .g1p
  | .g2a => .g2p
  | .eda => .ede
  | t => t

/-- `words(T)`: the size of a value in IOBUF words (40_data_movement.md R160). EMPTY and the reserved
codes have no size and no opcode admits them. -/
def wordsOf : TCode → Nat
  | .bool => 1
  | .fr => 4
  | .fq => 6
  | .fq2 => 12
  | .fq6 => 36
  | .fq12 => 72
  | .g1a => 13
  | .g1p => 18
  | .g2a => 25
  | .g2p => 36
  | .eda => 8
  | .ede => 16
  | _ => 0

/-- The legal immediates of CONST (30_encoding.md R125, 60_exceptions.md R425 step 4). -/
def constImmLegal (t : TCode) (k : BitVec 10) : Bool :=
  !(decide (k.toNat > 1) || (decide (t ∈ pointTypes) && decide (k.toNat = 1)))

/-- The legal immediates of FROB (30_encoding.md R125, 60_exceptions.md R425 step 4). -/
def frobImmLegal (i : BitVec 10) : Bool :=
  decide (i.toNat ≤ 11)

/-- The range check of format M: words `off .. off + words(T) - 1` lie in IOBUF (30_encoding.md R125,
60_exceptions.md R425 step 5). -/
def rangeLegal (t : TCode) (off : BitVec 10) : Bool :=
  decide (off.toNat + wordsOf t ≤ 1024)

end Sys2Proof.Machine
end

