-- ==== Sys2Proof/Decode.lean ====
section
/-!
DEFINITION. Decoding and encoding of command words (30_encoding.md R121, R122, R126, R129, R130;
60_exceptions.md R425 steps 1 and 2). Decoding is total: a word is a command, or it is refused by
the name of the fault it raises.
-/

namespace Sys2Proof

open Machine

/-- What a command word decodes to: a command, or the fault of its opcode or reserved fields. -/
inductive Decoded where
  | instr (i : Instr)
  | fault (c : FaultCode)
deriving DecidableEq, Repr

/-- OP, bits [31:26] (30_encoding.md R121). -/
def opField (w : Command) : BitVec 6 := w.extractLsb' 26 6

/-- T, bits [25:22] (30_encoding.md R121). -/
def tField (w : Command) : BitVec 4 := w.extractLsb' 22 4

/-- D, bits [21:18] (30_encoding.md R121). -/
def dField (w : Command) : BitVec 4 := w.extractLsb' 18 4

/-- A, bits [17:14] (30_encoding.md R121). -/
def aField (w : Command) : BitVec 4 := w.extractLsb' 14 4

/-- B, bits [13:10] (30_encoding.md R121). -/
def bField (w : Command) : BitVec 4 := w.extractLsb' 10 4

/-- X, bits [9:0] (30_encoding.md R121). -/
def xField (w : Command) : BitVec 10 := w.extractLsb' 0 10

/-- The C register of format S, X[9:6] (30_encoding.md R122). -/
def cField (w : Command) : BitVec 4 := w.extractLsb' 6 4

/-- X[5:0], reserved in format S (30_encoding.md R122). -/
def xLowField (w : Command) : BitVec 6 := w.extractLsb' 0 6

/-- `word = (OP << 26) | (T << 22) | (D << 18) | (A << 14) | (B << 10) | X` (30_encoding.md R121). -/
def packWord (op : BitVec 6) (t d a b : BitVec 4) (x : BitVec 10) : Command :=
  op ++ t ++ d ++ a ++ b ++ x

/-- A command whose reserved fields must be zero (30_encoding.md R130). -/
def unlessReserved (zero : Bool) (i : Instr) : Decoded :=
  if zero then .instr i else .fault .reservedField

/-- Format N: T, D, A, B and X are reserved (30_encoding.md R122). -/
def decodeN (w : Command) (i : Instr) : Decoded :=
  unlessReserved (tField w == 0 && dField w == 0 && aField w == 0 && bField w == 0 && xField w == 0) i

/-- Format M: A and B are reserved (30_encoding.md R122). -/
def decodeM (w : Command) (k : TCode → Reg → BitVec 10 → Instr) : Decoded :=
  unlessReserved (aField w == 0 && bField w == 0) (k (typeOfBits (tField w)) (dField w) (xField w))

/-- Format R2: B and X are reserved (30_encoding.md R122). -/
def decodeR2 (w : Command) (k : TCode → Reg → Reg → Instr) : Decoded :=
  unlessReserved (bField w == 0 && xField w == 0) (k (typeOfBits (tField w)) (dField w) (aField w))

/-- Format R3: X is reserved (30_encoding.md R122). -/
def decodeR3 (w : Command) (k : TCode → Reg → Reg → Reg → Instr) : Decoded :=
  unlessReserved (xField w == 0) (k (typeOfBits (tField w)) (dField w) (aField w) (bField w))

/-- Format S: X[5:0] is reserved, X[9:6] is C (30_encoding.md R122). -/
def decodeS (w : Command) (k : TCode → Reg → Reg → Reg → Reg → Instr) : Decoded :=
  unlessReserved (xLowField w == 0)
    (k (typeOfBits (tField w)) (dField w) (aField w) (bField w) (cField w))

/-- Format K: A and B are reserved (30_encoding.md R122). -/
def decodeK (w : Command) (k : TCode → Reg → BitVec 10 → Instr) : Decoded :=
  unlessReserved (aField w == 0 && bField w == 0) (k (typeOfBits (tField w)) (dField w) (xField w))

/-- Format F: B is reserved (30_encoding.md R122). -/
def decodeF (w : Command) (k : TCode → Reg → Reg → BitVec 10 → Instr) : Decoded :=
  unlessReserved (bField w == 0) (k (typeOfBits (tField w)) (dField w) (aField w) (xField w))

/-- The opcode map (30_encoding.md R126). Every OP not listed is reserved and raises ILLEGAL_OPCODE
whatever the other fields hold (30_encoding.md R129). -/
def decode (w : Command) : Decoded :=
  match (opField w).toNat with
  | 0x00 => decodeN w .nop
  | 0x01 => decodeM w .ld
  | 0x02 => decodeM w .st
  | 0x03 => decodeM w .ldm
  | 0x04 => decodeM w .stm
  | 0x05 => decodeR2 w .mov
  | 0x06 => decodeK w .const
  | 0x07 => decodeS w .sel
  | 0x10 => decodeR3 w .add
  | 0x11 => decodeR3 w .sub
  | 0x12 => decodeR2 w .dbl
  | 0x13 => decodeR2 w .neg
  | 0x14 => decodeR3 w .mul
  | 0x15 => decodeR2 w .sqr
  | 0x16 => decodeR2 w .inv
  | 0x17 => decodeR2 w .mred
  | 0x18 => decodeR3 w .eq
  | 0x19 => decodeR2 w .iszero
  | 0x1A => decodeR2 w .isone
  | 0x1B => decodeR2 w .mulnr
  | 0x1C => decodeR2 w .conj
  | 0x1D => decodeF w .frob
  | 0x20 => decodeR3 w .padd
  | 0x21 => decodeR2 w .pdbl
  | 0x22 => decodeR2 w .pneg
  | 0x23 => decodeR3 w .psmul
  | 0x24 => decodeR2 w .toproj
  | 0x25 => decodeR2 w .toaff
  | 0x26 => decodeR3 w .peq
  | 0x27 => decodeR2 w .isid
  | 0x28 => decodeR2 w .oncurve
  | _ => .fault .illegalOpcode

/-- A word of format M or K. -/
def encodeM (op : BitVec 6) (t : TCode) (d : Reg) (x : BitVec 10) : Command :=
  packWord op (typeBits t) d 0 0 x

/-- A word of format R2. -/
def encodeR2 (op : BitVec 6) (t : TCode) (d a : Reg) : Command :=
  packWord op (typeBits t) d a 0 0

/-- A word of format R3. -/
def encodeR3 (op : BitVec 6) (t : TCode) (d a b : Reg) : Command :=
  packWord op (typeBits t) d a b 0

/-- The word of a command (30_encoding.md R121, R122, R126). -/
def encode : Instr → Command
  | .nop => packWord 0x00 0 0 0 0 0
  | .ld t d off => encodeM 0x01 t d off
  | .st t d off => encodeM 0x02 t d off
  | .ldm t d off => encodeM 0x03 t d off
  | .stm t d off => encodeM 0x04 t d off
  | .mov t d a => encodeR2 0x05 t d a
  | .const t d k => encodeM 0x06 t d k
  | .sel t d a b c => packWord 0x07 (typeBits t) d a b (c ++ (0 : BitVec 6))
  | .add t d a b => encodeR3 0x10 t d a b
  | .sub t d a b => encodeR3 0x11 t d a b
  | .dbl t d a => encodeR2 0x12 t d a
  | .neg t d a => encodeR2 0x13 t d a
  | .mul t d a b => encodeR3 0x14 t d a b
  | .sqr t d a => encodeR2 0x15 t d a
  | .inv t d a => encodeR2 0x16 t d a
  | .mred t d a => encodeR2 0x17 t d a
  | .eq t d a b => encodeR3 0x18 t d a b
  | .iszero t d a => encodeR2 0x19 t d a
  | .isone t d a => encodeR2 0x1A t d a
  | .mulnr t d a => encodeR2 0x1B t d a
  | .conj t d a => encodeR2 0x1C t d a
  | .frob t d a i => packWord 0x1D (typeBits t) d a 0 i
  | .padd t d a b => encodeR3 0x20 t d a b
  | .pdbl t d a => encodeR2 0x21 t d a
  | .pneg t d a => encodeR2 0x22 t d a
  | .psmul t d a b => encodeR3 0x23 t d a b
  | .toproj t d a => encodeR2 0x24 t d a
  | .toaff t d a => encodeR2 0x25 t d a
  | .peq t d a b => encodeR3 0x26 t d a b
  | .isid t d a => encodeR2 0x27 t d a
  | .oncurve t d a => encodeR2 0x28 t d a

/-- The command a word of `nbits` bits, read as the number `w`, decodes to; none where the decoder
refuses it. Every command is one 32-bit word (30_encoding.md R120). -/
def decodeTableWord (nbits w : Nat) : Option Instr :=
  match decode (BitVec.ofNat 32 (w % 2 ^ nbits)) with
  | .instr i => some i
  | .fault _ => none

end Sys2Proof
end

