-- ==== Sys2Proof/Config.lean ====
section
/-!
DEFINITION. What an instance of the block fixes at synthesis (00_scope.md R6, R8; 10_state.md R53)
and the values the spec leaves open (70_reset_and_hazards.md R471). The default instance of the
parameter storage is in Machine/Params.lean.
-/

namespace Sys2Proof.Config

/-- The constants of one base field of `w` bits, `w` = 64·N_F (00_scope.md R6, R8): the modulus P_F,
INV_F = (-P_F⁻¹) mod 2^64, R2_F = R_F² mod P_F, ONE_F = R_F mod P_F with R_F = 2^w, and the addition
chain INV_CHAIN_F, whose j-th entry (s, t) makes element j + 1 the product of elements s and t
(41_field_kernel.md R212). -/
structure BaseField (w : Nat) where
  p : BitVec w
  inv : Word
  r2 : BitVec w
  one : BitVec w
  chain : List (Nat × Nat)
deriving DecidableEq, Repr

/-- The read-only parameter storage (10_state.md R53): every field constant is held in Montgomery
form. No command and no host access writes it; the host reads none of it but `paramId`, through CFG
(10_state.md R42). -/
structure ParamStore where
  fr : BaseField 256
  fq : BaseField 384
  /-- u² = BETA. -/
  beta : Fq
  /-- v³ = XI. -/
  xi : Fq2
  bG1 : Fq
  b3G1 : Fq
  bG2 : Fq2
  b3G2 : Fq2
  edA : Fr
  edD : Fr
  /-- The Frobenius coefficient tables (42_extension_tower.md R252). -/
  frob6C1 : Vector Fq2 6
  frob6C2 : Vector Fq2 6
  frob12C1 : Vector Fq2 12
  /-- PARAM_ID, reported in CFG (10_state.md R42). -/
  paramId : BitVec 8
deriving DecidableEq, Repr

/-- What the byte at offset `addr` of IOBUF reads as after the hard reset number `epoch`, until it is
written: any value, stable until written (70_reset_and_hazards.md R471, 20_memory.md R85,
93_implementation_defined.md section 2). A FREE VALUE: nothing constrains it (log 2, safe). -/
opaque freeIobufByte (epoch addr : Nat) : Byte

end Sys2Proof.Config
end

