-- ==== Sys2Proof/Machine/FieldKernel.lean ====
section
/-!
DEFINITION. The arithmetic of the two base fields (41_field_kernel.md): one algorithm over a base
field's constants, for FR (`w` = 256) and FQ (`w` = 384). Arguments and results are raw
Montgomery-form integers.
-/

namespace Sys2Proof.Machine

open Config

/-- The per-type functions of a field (43_field_instructions.md R280), with its zero and one. -/
structure FieldOps (K : Type) where
  zero : K
  one : K
  add : K → K → K
  sub : K → K → K
  dbl : K → K
  neg : K → K
  mul : K → K → K
  sqr : K → K
  inv : K → Option K
  eq : K → K → Bool
  isZero : K → Bool
  isOne : K → Bool

/-- N_F, the number of 64-bit limbs (41_field_kernel.md R200). -/
def limbCount (w : Nat) : Nat := w / 64

/-- `fadd_F` (41_field_kernel.md R203): (a + b) mod P_F. -/
def fadd {w : Nat} (F : BaseField w) (a b : BitVec w) : BitVec w :=
  BitVec.ofNat w ((a.toNat + b.toNat) % F.p.toNat)

/-- `fsub_F` (41_field_kernel.md R204): (a - b) mod P_F. -/
def fsub {w : Nat} (F : BaseField w) (a b : BitVec w) : BitVec w :=
  BitVec.ofInt w (((a.toNat : Int) - (b.toNat : Int)) % (F.p.toNat : Int))

/-- `fdbl_F` (41_field_kernel.md R205). -/
def fdbl {w : Nat} (F : BaseField w) (a : BitVec w) : BitVec w :=
  fadd F a a

/-- `fneg_F` (41_field_kernel.md R206): P_F - a when a != 0 and 0 when a = 0. -/
def fneg {w : Nat} (F : BaseField w) (a : BitVec w) : BitVec w :=
  if a = 0 then 0 else F.p - a

/-- One round of the reduction loop (41_field_kernel.md R207): limb `i` of the result is 0. -/
def montRound {w : Nat} (F : BaseField w) (t i : Nat) : Nat :=
  t + ((t >>> (64 * i)) % 2 ^ 64 * F.inv.toNat) % 2 ^ 64 * F.p.toNat * 2 ^ (64 * i)

/-- `mont_reduce_F` (41_field_kernel.md R207, R209): t · R_F⁻¹ mod P_F for 0 <= t < P_F · R_F, by the
rule's own algorithm. -/
def montReduce {w : Nat} (F : BaseField w) (t : Nat) : BitVec w :=
  let u := (List.range (limbCount w)).foldl (montRound F) t >>> (64 * limbCount w)
  BitVec.ofNat w (if F.p.toNat ≤ u then u - F.p.toNat else u)

/-- `mont_mul_F` (41_field_kernel.md R207): a · b · R_F⁻¹ mod P_F. -/
def montMul {w : Nat} (F : BaseField w) (a b : BitVec w) : BitVec w :=
  montReduce F (a.toNat * b.toNat)

/-- `fsqr_F` (41_field_kernel.md R208). -/
def fsqr {w : Nat} (F : BaseField w) (a : BitVec w) : BitVec w :=
  montMul F a a

/-- `val_F` (41_field_kernel.md R201, R210): the canonical value of a raw integer. -/
def valOf {w : Nat} (F : BaseField w) (m : BitVec w) : Nat :=
  (montReduce F m.toNat).toNat

/-- `mont_F` (41_field_kernel.md R201, R210): the Montgomery form of a canonical value. -/
def montOf {w : Nat} (F : BaseField w) (v : Nat) : BitVec w :=
  montMul F (BitVec.ofNat w v) F.r2

/-- The power a^e of a base-field element, `e` < 2^fuel, by squaring. -/
def fpow {w : Nat} (F : BaseField w) (a : BitVec w) : (fuel e : Nat) → BitVec w
  | 0, _ => F.one
  | fuel + 1, e =>
    let h := fsqr F (fpow F a fuel (e / 2))
    if e % 2 = 1 then montMul F h a else h

/-- `finv_F` (41_field_kernel.md R211, R212): None for zero, else a^(P_F - 2). The exponent is what
the addition chain computes; R212 asks a model to compute a^(P_F - 2) directly. -/
def finv {w : Nat} (F : BaseField w) (a : BitVec w) : Option (BitVec w) :=
  if a = 0 then none else some (fpow F a w (F.p.toNat - 2))

/-- The last element an addition chain computes (41_field_kernel.md R212), with `combine` for its
products: after element j the list holds x_j .. x_0, and entry (s, t) adds element j + 1; none when an
entry names an element that is not there yet. -/
def chainLoop {α : Type} (combine : α → α → α) : List (Nat × Nat) → (j : Nat) → List α → Option α
  | [], _, xs => xs.head?
  | (s, t) :: rest, j, xs =>
    if s ≤ j ∧ t ≤ j then
      match xs[j - s]?, xs[j - t]? with
      | some x, some y => chainLoop combine rest (j + 1) (combine x y :: xs)
      | _, _ => none
    else none

/-- The last element of the addition chain of a field from x_0 = a (41_field_kernel.md R212). -/
def runChain {w : Nat} (F : BaseField w) (a : BitVec w) : Option (BitVec w) :=
  chainLoop (montMul F) F.chain 0 [a]

/-- The addition chain is valid (41_field_kernel.md R212): the exponent of its last element is
P_F - 2. -/
def chainValid {w : Nat} (F : BaseField w) : Bool :=
  chainLoop (· + ·) F.chain 0 [1] == some (F.p.toNat - 2)

/-- `inrange_F` (41_field_kernel.md R215): v < P_F. -/
def inRange {w : Nat} (F : BaseField w) (v : Nat) : Bool :=
  decide (v < F.p.toNat)

/-- `ct_select` (41_field_kernel.md R214): b when c is 1, a when c is 0; the mask shows in timing
only. -/
def ctSelect {α : Type} (a b : α) (c : Bool) : α :=
  if c then b else a

/-- The functions of a base field (43_field_instructions.md R280). -/
def baseOps {w : Nat} (F : BaseField w) : FieldOps (BitVec w) where
  zero := 0
  one := F.one
  add := fadd F
  sub := fsub F
  dbl := fdbl F
  neg := fneg F
  mul := montMul F
  sqr := fsqr F
  inv := finv F
  eq := fun a b => a == b
  isZero := fun a => a == 0
  isOne := fun a => a == F.one

end Sys2Proof.Machine
end

