-- ==== Sys2Proof/Machine/Params.lean ====
section
/-!
DEFINITION. The default parameter instance, BLS12-381 with Jubjub (00_scope.md R7), with its derived
constants (00_scope.md R8, 42_extension_tower.md R252) in Montgomery form, and the equations that tie
derived constants to the parameters.
-/

namespace Sys2Proof.Machine

open Config

/-- The entries for the low `n` bits of `e`, when x_j is the element so far. -/
def chainEntries (e : Nat) : (n j : Nat) → List (Nat × Nat)
  | 0, _ => []
  | n + 1, j =>
    if e.testBit n then (j, j) :: (j + 1, 0) :: chainEntries e n (j + 2)
    else (j, j) :: chainEntries e n (j + 1)

/-- The left-to-right binary addition chain of the exponent `e` ≥ 1: square the last element, then
multiply by x_0 at a 1 bit. Any chain of exponent P - 2 is valid (41_field_kernel.md R212); this one is
the model's choice (log 11, DESIGN CHOICE). -/
def binaryChain (e : Nat) : List (Nat × Nat) := chainEntries e e.log2 0

/-- The derived constants of a base field, from its modulus and INV_F (00_scope.md R8). -/
def baseFieldOf (w : Nat) (p : Nat) (inv : Word) : BaseField w where
  p := BitVec.ofNat w p
  inv := inv
  r2 := BitVec.ofNat w (2 ^ w * 2 ^ w % p)
  one := BitVec.ofNat w (2 ^ w % p)
  chain := binaryChain (p - 2)

/-- P_FR of the default instance (00_scope.md R7). -/
def defaultPFr : Nat :=
  0x73eda753299d7d483339d80809a1d80553bda402fffe5bfeffffffff00000001

/-- P_FQ of the default instance (00_scope.md R7). -/
def defaultPFq : Nat :=
  0x1a0111ea397fe69a4b1ba7b6434bacd764774b84f38512bf6730d2a0f6b0f6241eabfffeb153ffffb9feffffffffaaab

/-- FROB6_C1 of the default instance, in Montgomery form (42_extension_tower.md R252). -/
def defaultFrob6C1 : Vector Fq2 6 := #v[
  ⟨0x15f65ec3fa80e4935c071a97a256ec6d77ce5853705257455f48985753c758baebf4000bc40c0002760900000002fffd,
    0x0⟩,
  ⟨0x0,
    0x18f020655463874103f97d6e83d050d28eb60ebe01bacb9e587042afd3851b955dab22461fcda5d2cd03c9e48671f071⟩,
  ⟨0x51ba4ab241b61603636b76660701c6ec26a2ff874fd029b16a8ca3ac61577f7f3b8ddab7ece5a2a30f1361b798a64e8,
    0x0⟩,
  ⟨0x0,
    0x15f65ec3fa80e4935c071a97a256ec6d77ce5853705257455f48985753c758baebf4000bc40c0002760900000002fffd⟩,
  ⟨0x18f020655463874103f97d6e83d050d28eb60ebe01bacb9e587042afd3851b955dab22461fcda5d2cd03c9e48671f071,
    0x0⟩,
  ⟨0x0,
    0x51ba4ab241b61603636b76660701c6ec26a2ff874fd029b16a8ca3ac61577f7f3b8ddab7ece5a2a30f1361b798a64e8⟩]

/-- FROB6_C2 of the default instance, in Montgomery form (42_extension_tower.md R252). -/
def defaultFrob6C2 : Vector Fq2 6 := #v[
  ⟨0x15f65ec3fa80e4935c071a97a256ec6d77ce5853705257455f48985753c758baebf4000bc40c0002760900000002fffd,
    0x0⟩,
  ⟨0x14e56d3f1564853a14e4f04fe2db9068a20d1b8c7e88102450880866309b7e2c2af322533285a5d5890dc9e4867545c3,
    0x0⟩,
  ⟨0x18f020655463874103f97d6e83d050d28eb60ebe01bacb9e587042afd3851b955dab22461fcda5d2cd03c9e48671f071,
    0x0⟩,
  ⟨0x40ab3263eff0206ef148d1ea0f4c069eca8f3318332bb7a07e83a49a2e99d6932b7fff2ed47fffd43f5fffffffcaaae,
    0x0⟩,
  ⟨0x51ba4ab241b61603636b76660701c6ec26a2ff874fd029b16a8ca3ac61577f7f3b8ddab7ece5a2a30f1361b798a64e8,
    0x0⟩,
  ⟨0x110f184e51c5f5947222a47bf7b5c04d5c13cc6f1ca47210ec08ff1232bda8ec100ddb891865a2cecfb361b798dba3a,
    0x0⟩]

/-- FROB12_C1 of the default instance, in Montgomery form (42_extension_tower.md R252). -/
def defaultFrob12C1 : Vector Fq2 12 := #v[
  ⟨0x15f65ec3fa80e4935c071a97a256ec6d77ce5853705257455f48985753c758baebf4000bc40c0002760900000002fffd,
    0x0⟩,
  ⟨0x8f2220fb0fb66eb1ce393ea5daace4da35baecab2dc29ee97e83cccd117228fc6695f92b50a831307089552b319d465,
    0x110eefda88847faf2e3813cbe5a0de89c11b9cba40a8e8d0cf4895d42599d3945842a06bfc497cecb2f66aad4ce5d646⟩,
  ⟨0x110f184e51c5f5947222a47bf7b5c04d5c13cc6f1ca47210ec08ff1232bda8ec100ddb891865a2cecfb361b798dba3a,
    0x0⟩,
  ⟨0xbd592fc7d825ec81d794e4fac7cf0b992ad2afd19103e18382844c88b6237324294213d86c181833e2f585da55c9ad1,
    0xe2b7eedbbfd87d22da2596696cebc1dd1ca2087da74d4a72f088dd86b4ebef1dc17dec12a927e7c7bcfa7a25aa30fda⟩,
  ⟨0x51ba4ab241b61603636b76660701c6ec26a2ff874fd029b16a8ca3ac61577f7f3b8ddab7ece5a2a30f1361b798a64e8,
    0x0⟩,
  ⟨0x2e370eccc86f7dd0095ba654ed2226bef517c3266341429a04007fbba4b14a27c2ac1aad1b6fe703726c30af242c66c,
    0x171da0fd6cf8eebd4a85ed50f4798a6b7525cf528d50fe95c6f0caa53c65e181a2813e53df9d018f82d83cf50dbce43f⟩,
  ⟨0x40ab3263eff0206ef148d1ea0f4c069eca8f3318332bb7a07e83a49a2e99d6932b7fff2ed47fffd43f5fffffffcaaae,
    0x0⟩,
  ⟨0x110eefda88847faf2e3813cbe5a0de89c11b9cba40a8e8d0cf4895d42599d3945842a06bfc497cecb2f66aad4ce5d646,
    0x8f2220fb0fb66eb1ce393ea5daace4da35baecab2dc29ee97e83cccd117228fc6695f92b50a831307089552b319d465⟩,
  ⟨0x18f020655463874103f97d6e83d050d28eb60ebe01bacb9e587042afd3851b955dab22461fcda5d2cd03c9e48671f071,
    0x0⟩,
  ⟨0xe2b7eedbbfd87d22da2596696cebc1dd1ca2087da74d4a72f088dd86b4ebef1dc17dec12a927e7c7bcfa7a25aa30fda,
    0xbd592fc7d825ec81d794e4fac7cf0b992ad2afd19103e18382844c88b6237324294213d86c181833e2f585da55c9ad1⟩,
  ⟨0x14e56d3f1564853a14e4f04fe2db9068a20d1b8c7e88102450880866309b7e2c2af322533285a5d5890dc9e4867545c3,
    0x0⟩,
  ⟨0x171da0fd6cf8eebd4a85ed50f4798a6b7525cf528d50fe95c6f0caa53c65e181a2813e53df9d018f82d83cf50dbce43f,
    0x2e370eccc86f7dd0095ba654ed2226bef517c3266341429a04007fbba4b14a27c2ac1aad1b6fe703726c30af242c66c⟩]

/-- The default parameter storage (00_scope.md R7, R8): BETA = -1, XI = 1 + u, B_G1 = 4, B_G2 = 4 + 4u,
ED_A = -1, ED_D = -(10240/10241); PARAM_ID = 0x01. -/
def defaultParams : ParamStore where
  fr := baseFieldOf 256 defaultPFr 0xfffffffeffffffff
  fq := baseFieldOf 384 defaultPFq 0x89f3fffcfffcfffd
  beta := 0x40ab3263eff0206ef148d1ea0f4c069eca8f3318332bb7a07e83a49a2e99d6932b7fff2ed47fffd43f5fffffffcaaae
  xi := ⟨0x15f65ec3fa80e4935c071a97a256ec6d77ce5853705257455f48985753c758baebf4000bc40c0002760900000002fffd,
    0x15f65ec3fa80e4935c071a97a256ec6d77ce5853705257455f48985753c758baebf4000bc40c0002760900000002fffd⟩
  bG1 := 0x9d645513d83de7e8ec9733bbf78ab2fb1d37ebee6ba24d7478fe97a6b0a807f53cc0032fc34000aaa270000000cfff3
  b3G1 := 0x381be097f0bb4e16140b1fcfb1e54b7b10330b7c0a95bc66f7ee9ce4a6e8b59dcb8009a43480020447600000027552e
  bG2 := ⟨0x9d645513d83de7e8ec9733bbf78ab2fb1d37ebee6ba24d7478fe97a6b0a807f53cc0032fc34000aaa270000000cfff3,
    0x9d645513d83de7e8ec9733bbf78ab2fb1d37ebee6ba24d7478fe97a6b0a807f53cc0032fc34000aaa270000000cfff3⟩
  b3G2 := ⟨0x381be097f0bb4e16140b1fcfb1e54b7b10330b7c0a95bc66f7ee9ce4a6e8b59dcb8009a43480020447600000027552e,
    0x381be097f0bb4e16140b1fcfb1e54b7b10330b7c0a95bc66f7ee9ce4a6e8b59dcb8009a43480020447600000027552e⟩
  edA := 0x5bc8f5f97cd877d899ad88181ce5880ffb38ec08fffb13fcfffffffd00000003
  edD := 0x57f8f6a8fe0e262e7a08fb94c27628d1fc6cc9ef0d9acab32a522455b974f6b0
  frob6C1 := defaultFrob6C1
  frob6C2 := defaultFrob6C2
  frob12C1 := defaultFrob12C1
  paramId := 0x01

/-- The equations of 00_scope.md R6 and R8 on one base field's constants: an odd modulus of at least 3
whose derived constants are what the formulas give, and an addition chain of exponent P - 2. -/
def baseFieldOk {w : Nat} (F : BaseField w) : Bool :=
  decide (3 ≤ F.p.toNat) && decide (F.p.toNat % 2 = 1) &&
  decide (F.p.toNat * F.inv.toNat % 2 ^ 64 = 2 ^ 64 - 1) &&
  decide (F.r2.toNat = 2 ^ w * 2 ^ w % F.p.toNat) &&
  decide (F.one.toNat = 2 ^ w % F.p.toNat) && chainValid F

/-- A raw coefficient is below its modulus (10_state.md R35). -/
def canonical {w : Nat} (F : BaseField w) (m : BitVec w) : Bool :=
  decide (m.toNat < F.p.toNat)

/-- Both coefficients of an FQ2 element are below P_FQ (10_state.md R35). -/
def canonical2 (P : ParamStore) (a : Fq2) : Bool :=
  canonical P.fq a.c0 && canonical P.fq a.c1

/-- The parameter storage is consistent (00_scope.md R6, R8): both base fields' derived constants are
right, P_FQ mod 6 = 1, every stored coefficient is below its modulus, B3 = 3·B, and the curve
coefficients are not degenerate. The algebraic constraints of R6 (primality, non-residues) and R335
are premises of the statements that need them. -/
def paramsOk (P : ParamStore) : Bool :=
  baseFieldOk P.fr && baseFieldOk P.fq && decide (P.fq.p.toNat % 6 = 1) &&
  canonical P.fq P.beta && canonical2 P P.xi &&
  canonical P.fq P.bG1 && canonical2 P P.bG2 &&
  P.b3G1 == fadd P.fq (fadd P.fq P.bG1 P.bG1) P.bG1 &&
  P.b3G2.c0 == fadd P.fq (fadd P.fq P.bG2.c0 P.bG2.c0) P.bG2.c0 &&
  P.b3G2.c1 == fadd P.fq (fadd P.fq P.bG2.c1 P.bG2.c1) P.bG2.c1 &&
  P.bG1 != 0 && P.bG2 != ⟨0, 0⟩ &&
  canonical P.fr P.edA && canonical P.fr P.edD && P.edA != 0 && P.edD != 0 && P.edA != P.edD &&
  P.frob6C1.toList.all (canonical2 P) && P.frob6C2.toList.all (canonical2 P) &&
  P.frob12C1.toList.all (canonical2 P)

end Sys2Proof.Machine
end

