-- ==== Sys2Proof/Machine/State.lean ====
section
/-!
DEFINITION. The state of the block (10_state.md R30), the reasons a step could stop, and the state
after reset (10_state.md R55).
-/

namespace Sys2Proof.Machine

open Config

/-- The reasons the model's machine stops with a fault of its OWN: there are none. A fault of the
block (60_exceptions.md R421) is no stop of the model: the step that takes it answers a next state
with STATUS.FAULT set. Closed and empty: nobody raises one (safe). -/
inductive Fault
deriving DecidableEq, Repr

/-- The reasons the model has no meaning for a command. -/
inductive Refusal where
  /-- Raised only by an arm of `exec` whose command has no meaning yet; there is no such arm (safe). -/
  | notModelled (mnemonic : String)
deriving DecidableEq, Repr

/-- What a value register holds: its tag (the constructor, 10_state.md R32) and the payload of that
tag (10_state.md R33). An EMPTY register's payload bits are never observable (R34) and are not held
(log 6, safe). -/
inductive Value where
  | empty
  | bool (b : Bool)
  | fr (m : Fr)
  | fq (m : Fq)
  | fq2 (m : Fq2)
  | fq6 (m : Fq6)
  | fq12 (m : Fq12)
  | g1a (p : AffinePoint Fq)
  | g1p (p : ProjPoint Fq)
  | g2a (p : AffinePoint Fq2)
  | g2p (p : ProjPoint Fq2)
  | eda (p : EdAffine)
  | ede (p : EdExtended)
deriving DecidableEq, Repr

/-- The stored fields of STATUS (10_state.md R44). BUSY and QCOUNT are computed from the rest of the
state (R37, R50). -/
structure Status where
  fault : Bool
  done : Bool
  none : Bool
  decfail : Bool
  cmdovf : Bool
  hostconf : Bool
  buserr : Bool
  faultCode : BitVec 8
deriving DecidableEq, Repr

/-- READ or WRITE (20_memory.md R81). -/
inductive AccessKind where
  | read
  | write
deriving DecidableEq, Repr

/-- The size of a host access: 1, 2, 4 or 8 bytes (20_memory.md R81). -/
inductive AccessSize where
  | b1
  | b2
  | b4
  | b8
deriving DecidableEq, Repr

/-- A host access `(kind, addr, size, wdata)` (20_memory.md R81). -/
structure Access where
  kind : AccessKind
  addr : BitVec 16
  size : AccessSize
  wdata : Word
deriving DecidableEq, Repr

/-- `resp` of an answer (20_memory.md R81). -/
inductive Resp where
  | okay
  | error
deriving DecidableEq, Repr

/-- The answer `(resp, rdata)` to a host access (20_memory.md R81). -/
structure Response where
  resp : Resp
  rdata : Word
deriving DecidableEq, Repr

/-- One turn of the schedule (70_reset_and_hazards.md R480): a host access, the ENGINE's turn, or a
hard reset. -/
inductive Input where
  | host (a : Access)
  | engine
  | hardReset
deriving DecidableEq, Repr

/-- IOBUF as a list of (byte offset, byte), offsets strictly rising and below 8192 (20_memory.md R85,
R86). An offset is listed exactly when the byte was written since the last hard reset (10_state.md
R54); an unlisted byte reads as a free value (log 2). -/
abbrev Memory := List Host.Cell

/-- The state of the block (10_state.md R30), with the parameter storage it was built with, and three
fields of the model's own: the schedule, the last answer of the host port and the number of hard
resets. -/
structure State where
  /-- V0 to V15 (10_state.md R31). -/
  v : Vector Value 16
  /-- IOBUF (20_memory.md R85). -/
  iobuf : Memory
  /-- The command FIFO, head first (10_state.md R37). -/
  fifo : List Command
  /-- The in-flight slot (10_state.md R38). -/
  inflight : Option Command
  /-- CTRL.DONE_IE (10_state.md R43). -/
  doneIe : Bool
  /-- CTRL.FAULT_IE (10_state.md R43). -/
  faultIe : Bool
  /-- STATUS (10_state.md R44). -/
  status : Status
  /-- CMD_COUNT (10_state.md R47). -/
  cmdCount : Word
  /-- FAULT_INFO (10_state.md R48). -/
  faultInfo : Word
  /-- The parameter storage (10_state.md R53): constants, written by no step (log 1). -/
  params : ParamStore
  /-- The answer to the last host access (20_memory.md R81; the model's own, log 5). -/
  response : Option Response
  /-- Who takes the next steps (70_reset_and_hazards.md R480; the model's own, log 4). -/
  inputs : List Input
  /-- How many hard resets there were (the model's own, log 3). -/
  hardResets : Nat
deriving DecidableEq, Repr

/-- STATUS after reset: every bit 0 (10_state.md R55). -/
def Status.reset : Status where
  fault := false
  done := false
  none := false
  decfail := false
  cmdovf := false
  hostconf := false
  buserr := false
  faultCode := 0

/-- The block right after its first hard reset (10_state.md R55, 70_reset_and_hazards.md R471, R474),
built with the default parameter instance (00_scope.md R7). -/
def State.reset : State where
  v := Vector.replicate 16 .empty
  iobuf := []
  fifo := []
  inflight := none
  doneIe := false
  faultIe := false
  status := Status.reset
  cmdCount := 0
  faultInfo := 0
  params := defaultParams
  response := none
  inputs := []
  hardResets := 0

end Sys2Proof.Machine
end

