-- ==== Sys2Proof/Machine/Flags.lean ====
section
/-!
DEFINITION. The event flags of STATUS, the computed views BUSY, QCOUNT and irq, and the words the
host reads as STATUS, CTRL and CFG (10_state.md R37, R39, R42 to R45, R50, R51).
-/

namespace Sys2Proof.Machine

/-- QCOUNT: the number of words the FIFO holds (10_state.md R37). -/
def State.qcount (s : State) : Nat := s.fifo.length

/-- CMDQ_DEPTH (00_scope.md R6). -/
def cmdqDepth : Nat := 16

/-- STATUS.BUSY (10_state.md R50): FAULT = 0 and the slot is full or QCOUNT > 0. -/
def State.busy (s : State) : Bool :=
  !s.status.fault && (s.inflight.isSome || decide (0 < s.qcount))

/-- The ENGINE's condition (10_state.md R39). -/
inductive EngineCondition where
  | faulted
  | running
  | idle
deriving DecidableEq, Repr

/-- FAULTED, RUNNING or IDLE, derived from the state (10_state.md R39). -/
def State.engineCondition (s : State) : EngineCondition :=
  if s.status.fault then .faulted
  else if s.inflight.isSome || decide (0 < s.qcount) then .running
  else .idle

/-- The interrupt output (10_state.md R51, 60_exceptions.md R434). -/
def State.irq (s : State) : Bool :=
  (s.status.done && s.doneIe) || (s.status.fault && s.faultIe)

/-- A bit at its place in a 64-bit register. -/
def bitAt (b : Bool) (i : Nat) : Word :=
  (BitVec.ofBool b).setWidth 64 <<< i

/-- The word a read of STATUS returns (10_state.md R44). -/
def State.statusWord (s : State) : Word :=
  bitAt s.busy 0 ||| bitAt s.status.fault 1 ||| bitAt s.status.done 2 ||| bitAt s.status.none 3 |||
  bitAt s.status.decfail 4 ||| bitAt s.status.cmdovf 5 ||| bitAt s.status.hostconf 6 |||
  bitAt s.status.buserr 7 ||| (s.status.faultCode.setWidth 64 <<< 8) |||
  ((BitVec.ofNat 5 s.qcount).setWidth 64 <<< 16)

/-- The word a read of CTRL returns: bits [1:0] and zeros elsewhere (10_state.md R43). -/
def State.ctrlWord (s : State) : Word :=
  bitAt s.doneIe 0 ||| bitAt s.faultIe 1

/-- ID (10_state.md R41). -/
def idWord : Word := 0x4B4F474100010000

/-- CFG (10_state.md R42): NREG, CMDQ_DEPTH, IOBUF_WORDS, N_FR, N_FQ, PARAM_ID, zero. -/
def State.cfgWord (s : State) : Word :=
  (0 : BitVec 8) ++ s.params.paramId ++ (6 : BitVec 8) ++ (4 : BitVec 8) ++ (1024 : BitVec 16) ++
    (16 : BitVec 8) ++ (16 : BitVec 8)

/-- A host write to STATUS clears each of bits [7:2] whose written bit is 1 (10_state.md R45). -/
def clearStatus (wdata : Word) (st : Status) : Status :=
  { st with
    done := st.done && !wdata.getLsbD 2
    none := st.none && !wdata.getLsbD 3
    decfail := st.decfail && !wdata.getLsbD 4
    cmdovf := st.cmdovf && !wdata.getLsbD 5
    hostconf := st.hostconf && !wdata.getLsbD 6
    buserr := st.buserr && !wdata.getLsbD 7 }

/-- STATUS.NONE <- 1 (60_exceptions.md R432). -/
def State.setNone (s : State) : State := { s with status := { s.status with none := true } }

/-- STATUS.DECFAIL <- 1 (60_exceptions.md R431). -/
def State.setDecfail (s : State) : State := { s with status := { s.status with decfail := true } }

/-- STATUS.DONE <- 1 (70_reset_and_hazards.md R481). -/
def State.setDone (s : State) : State := { s with status := { s.status with done := true } }

/-- STATUS.CMDOVF <- 1 (60_exceptions.md R440). -/
def State.setCmdovf (s : State) : State := { s with status := { s.status with cmdovf := true } }

/-- STATUS.HOSTCONF <- 1 (60_exceptions.md R439). -/
def State.setHostconf (s : State) : State := { s with status := { s.status with hostconf := true } }

/-- STATUS.BUSERR <- 1 (60_exceptions.md R438). -/
def State.setBuserr (s : State) : State := { s with status := { s.status with buserr := true } }

end Sys2Proof.Machine
end

