-- ==== Sys2Proof/Machine/Ops.lean ====
section
/-!
DEFINITION. The named operations of the machine: IOBUF (20_memory.md R86), the value register file
(10_state.md R31), taking a fault and the return from one (60_exceptions.md R421, R426, R429), the
commit of a command (70_reset_and_hazards.md R481) and the two resets (10_state.md R55).
-/

namespace Sys2Proof.Machine

/-- IOBUF_WORDS · 8: the number of bytes of IOBUF (20_memory.md R85). -/
def iobufBytes : Nat := 8192

/-- The byte listed at an offset; none when it was not written since the last hard reset. -/
def Memory.read : Memory → Nat → Option Byte
  | [], _ => none
  | (a', b) :: m, a => if a = a' then some b else Memory.read m a

/-- Write one byte, keeping the offsets strictly rising. -/
def Memory.write : Memory → Nat → Byte → Memory
  | [], a, b => [(a, b)]
  | (a', b') :: m, a, b =>
    if a < a' then (a, b) :: (a', b') :: m
    else if a = a' then (a, b) :: m
    else (a', b') :: Memory.write m a b

/-- The offsets rise strictly. -/
def Memory.rising : Memory → Bool
  | [] => true
  | [_] => true
  | (a, _) :: (a', b') :: m => decide (a < a') && Memory.rising ((a', b') :: m)

/-- The canonical form of IOBUF: offsets strictly rising and below 8192. A listed byte is a written
byte, so no entry equals what an unlisted offset reads as (log 2). -/
def Memory.wf (m : Memory) : Bool :=
  Memory.rising m && m.all (fun c => decide (c.1 < iobufBytes))

/-- `MemWrite(addr, n, v)`: the n low bytes of v, little-endian (20_memory.md R86). -/
def Memory.writeN (m : Memory) (a : Nat) : (n : Nat) → (v : Nat) → Memory
  | 0, _ => m
  | n + 1, v => Memory.write (Memory.writeN m (a + 1) n (v / 256)) a (BitVec.ofNat 8 v)

/-- IOBUF_byte[a]: the written byte, or the free value of the byte since the last hard reset
(70_reset_and_hazards.md R471). -/
def State.iobufByte (s : State) (a : Nat) : Byte :=
  (Memory.read s.iobuf a).getD (Config.freeIobufByte s.hardResets a)

/-- `MemRead(addr, n)`: n bytes from `addr`, little-endian (20_memory.md R86). -/
def State.memRead (s : State) (a : Nat) : (n : Nat) → Nat
  | 0 => 0
  | n + 1 => (s.iobufByte a).toNat + 256 * State.memRead s (a + 1) n

/-- `Word(w) = MemRead(8w, 8)` (20_memory.md R86). -/
def State.iobufWord (s : State) (w : Nat) : Nat := s.memRead (8 * w) 8

/-- `MemWrite` on the state's IOBUF (20_memory.md R86). -/
def State.memWrite (s : State) (a n v : Nat) : State :=
  { s with iobuf := Memory.writeN s.iobuf a n v }

/-- Consecutive integers, each of a number of words, written from word offset `off` on
(40_data_movement.md R161, R163, R164). -/
def State.storeChunks (s : State) (off : Nat) : List (Nat × Nat) → State
  | [] => s
  | (words, v) :: rest => State.storeChunks (s.memWrite (8 * off) (8 * words) v) (off + words) rest

/-- V[r] (10_state.md R31). -/
def State.reg (s : State) (r : Reg) : Value := s.v[r.toFin]

/-- V[r] <- x (10_state.md R31). -/
def State.setReg (s : State) (r : Reg) (x : Value) : State :=
  { s with v := s.v.set r.toNat x r.isLt }

/-- The word in the in-flight slot. A command only executes from a full slot (10_state.md R38); of an
empty slot the word is 0 (log 8). -/
def State.inflightWord (s : State) : Command := s.inflight.getD 0

/-- Taking a fault (60_exceptions.md R421, R426, R428), one operation for every cause: nothing of the
command is committed, the code and the command's word and index are recorded, the slot and the FIFO
are emptied. -/
def takeFault (code : FaultCode) (s : State) : State :=
  { s with
    status := { s.status with fault := true, faultCode := faultBits code }
    faultInfo := s.cmdCount.extractLsb' 0 32 ++ s.inflightWord
    inflight := none
    fifo := [] }

/-- The return from a fault, CTRL.CLRF (60_exceptions.md R429): no effect unless FAULT = 1. -/
def clearFault (s : State) : State :=
  if s.status.fault then { s with status := { s.status with fault := false, faultCode := 0 } } else s

/-- What a command commits (70_reset_and_hazards.md R481). -/
inductive Effect where
  /-- Nothing beside the retire itself: NOP. -/
  | nothing
  /-- V[D] <- (tag, payload). -/
  | put (d : Reg) (x : Value)
  /-- `none()` (60_exceptions.md R432). -/
  | noneResult (d : Reg)
  /-- `decfail()` (60_exceptions.md R431). -/
  | decodeFailure (d : Reg)
  /-- The words of one value, written from a word offset on (20_memory.md R90). -/
  | store (off : Nat) (chunks : List (Nat × Nat))
deriving DecidableEq, Repr

/-- The commit of a command's writes (70_reset_and_hazards.md R481). -/
def applyEffect (e : Effect) (s : State) : State :=
  match e with
  | .nothing => s
  | .put d x => s.setReg d x
  | .noneResult d => (s.setReg d .empty).setNone
  | .decodeFailure d => (s.setReg d .empty).setDecfail
  | .store off chunks => s.storeChunks off chunks

/-- The rest of the retire step (70_reset_and_hazards.md R481): CMD_COUNT counts modulo 2^64, the slot
empties, and DONE is set when the ENGINE becomes IDLE. -/
def retire (s : State) : State :=
  { s with
    cmdCount := s.cmdCount + 1
    inflight := none
    status := { s.status with done := s.status.done || s.fifo.isEmpty } }

/-- The end of a command: its fault, or its commit and retire (70_reset_and_hazards.md R481). Every
command answers a next state. -/
def complete (r : Except FaultCode Effect) (s : State) : Host.Outcome State Fault Refusal :=
  .next (match r with
    | .ok e => retire (applyEffect e s)
    | .error code => takeFault code s)

/-- The soft reset, CTRL.SRST (70_reset_and_hazards.md R472, 10_state.md R55): IOBUF keeps its
contents. The parameter storage does not change (R476); the model's own fields are no part of it. -/
def softReset (s : State) : State :=
  { State.reset with
    iobuf := s.iobuf
    params := s.params
    response := s.response
    inputs := s.inputs
    hardResets := s.hardResets }

/-- The hard reset, rst (70_reset_and_hazards.md R471, 10_state.md R55): IOBUF holds unspecified values
again, no host access has been answered since. -/
def hardReset (s : State) : State :=
  { State.reset with
    params := s.params
    inputs := s.inputs
    hardResets := s.hardResets + 1 }

end Sys2Proof.Machine
end

