-- ==== Sys2Proof/Machine/Tower.lean ====
section
/-!
DEFINITION. The extension tower FQ2, FQ6, FQ12 and its Frobenius maps (42_extension_tower.md).
-/

namespace Sys2Proof.Machine

open Config

/-- The functions of FR. -/
def frOps (P : ParamStore) : FieldOps Fr := baseOps P.fr

/-- The functions of FQ. -/
def fqOps (P : ParamStore) : FieldOps Fq := baseOps P.fq

/-- FQ2 addition, by component (42_extension_tower.md R242). -/
def add2 (P : ParamStore) (a b : Fq2) : Fq2 := ⟨fadd P.fq a.c0 b.c0, fadd P.fq a.c1 b.c1⟩

/-- FQ2 subtraction, by component (42_extension_tower.md R242). -/
def sub2 (P : ParamStore) (a b : Fq2) : Fq2 := ⟨fsub P.fq a.c0 b.c0, fsub P.fq a.c1 b.c1⟩

/-- FQ2 doubling, by component (42_extension_tower.md R242). -/
def dbl2 (P : ParamStore) (a : Fq2) : Fq2 := ⟨fdbl P.fq a.c0, fdbl P.fq a.c1⟩

/-- FQ2 negation, by component (42_extension_tower.md R242). -/
def neg2 (P : ParamStore) (a : Fq2) : Fq2 := ⟨fneg P.fq a.c0, fneg P.fq a.c1⟩

/-- FQ2 multiplication, the 3-multiplication formula (42_extension_tower.md R243). -/
def mul2 (P : ParamStore) (a b : Fq2) : Fq2 :=
  let v0 := montMul P.fq a.c0 b.c0
  let v1 := montMul P.fq a.c1 b.c1
  { c0 := fadd P.fq v0 (montMul P.fq P.beta v1)
    c1 := fsub P.fq (fsub P.fq (montMul P.fq (fadd P.fq a.c0 a.c1) (fadd P.fq b.c0 b.c1)) v0) v1 }

/-- FQ2 squaring (42_extension_tower.md R243). -/
def sqr2 (P : ParamStore) (a : Fq2) : Fq2 := mul2 P a a

/-- FQ2 conjugation, u ↦ -u (42_extension_tower.md R244). -/
def conj2 (P : ParamStore) (a : Fq2) : Fq2 := ⟨a.c0, fneg P.fq a.c1⟩

/-- The norm a0² - BETA·a1² to FQ (42_extension_tower.md R244). -/
def norm2 (P : ParamStore) (a : Fq2) : Fq :=
  fsub P.fq (fsqr P.fq a.c0) (montMul P.fq P.beta (fsqr P.fq a.c1))

/-- FQ2 inverse through the norm (42_extension_tower.md R244). -/
def inv2 (P : ParamStore) (a : Fq2) : Option Fq2 :=
  match finv P.fq (norm2 P a) with
  | none => none
  | some n => some ⟨montMul P.fq a.c0 n, fneg P.fq (montMul P.fq a.c1 n)⟩

/-- FQ2 multiplication by XI (42_extension_tower.md R245). -/
def mulnr2 (P : ParamStore) (a : Fq2) : Fq2 := mul2 P a P.xi

/-- FQ2 zero (42_extension_tower.md R241). -/
def zero2 : Fq2 := ⟨0, 0⟩

/-- FQ2 one (42_extension_tower.md R241). -/
def one2 (P : ParamStore) : Fq2 := ⟨P.fq.one, 0⟩

/-- The functions of FQ2 (43_field_instructions.md R280, 42_extension_tower.md R254). -/
def fq2Ops (P : ParamStore) : FieldOps Fq2 where
  zero := zero2
  one := one2 P
  add := add2 P
  sub := sub2 P
  dbl := dbl2 P
  neg := neg2 P
  mul := mul2 P
  sqr := sqr2 P
  inv := inv2 P
  eq := fun a b => a == b
  isZero := fun a => a == zero2
  isOne := fun a => a == one2 P

/-- FQ6 addition, by component (42_extension_tower.md R247). -/
def add6 (P : ParamStore) (a b : Fq6) : Fq6 := ⟨add2 P a.c0 b.c0, add2 P a.c1 b.c1, add2 P a.c2 b.c2⟩

/-- FQ6 subtraction, by component (42_extension_tower.md R247). -/
def sub6 (P : ParamStore) (a b : Fq6) : Fq6 := ⟨sub2 P a.c0 b.c0, sub2 P a.c1 b.c1, sub2 P a.c2 b.c2⟩

/-- FQ6 doubling, by component (42_extension_tower.md R247). -/
def dbl6 (P : ParamStore) (a : Fq6) : Fq6 := ⟨dbl2 P a.c0, dbl2 P a.c1, dbl2 P a.c2⟩

/-- FQ6 negation, by component (42_extension_tower.md R247). -/
def neg6 (P : ParamStore) (a : Fq6) : Fq6 := ⟨neg2 P a.c0, neg2 P a.c1, neg2 P a.c2⟩

/-- FQ6 multiplication, the product in FQ2[v]/(v³ - XI) (42_extension_tower.md R247). -/
def mul6 (P : ParamStore) (a b : Fq6) : Fq6 :=
  { c0 := add2 P (mul2 P a.c0 b.c0) (mulnr2 P (add2 P (mul2 P a.c1 b.c2) (mul2 P a.c2 b.c1)))
    c1 := add2 P (add2 P (mul2 P a.c0 b.c1) (mul2 P a.c1 b.c0)) (mulnr2 P (mul2 P a.c2 b.c2))
    c2 := add2 P (add2 P (mul2 P a.c0 b.c2) (mul2 P a.c1 b.c1)) (mul2 P a.c2 b.c0) }

/-- FQ6 squaring (42_extension_tower.md R247). -/
def sqr6 (P : ParamStore) (a : Fq6) : Fq6 := mul6 P a a

/-- FQ6 multiplication by v (42_extension_tower.md R248). -/
def mulnr6 (P : ParamStore) (a : Fq6) : Fq6 := ⟨mulnr2 P a.c2, a.c0, a.c1⟩

/-- FQ6 inverse through the norm to FQ2 (42_extension_tower.md R248). -/
def inv6 (P : ParamStore) (a : Fq6) : Option Fq6 :=
  let t0 := sub2 P (sqr2 P a.c0) (mulnr2 P (mul2 P a.c1 a.c2))
  let t1 := sub2 P (mulnr2 P (sqr2 P a.c2)) (mul2 P a.c0 a.c1)
  let t2 := sub2 P (sqr2 P a.c1) (mul2 P a.c0 a.c2)
  let n := add2 P (mul2 P a.c0 t0) (mulnr2 P (add2 P (mul2 P a.c2 t1) (mul2 P a.c1 t2)))
  match inv2 P n with
  | none => none
  | some n' => some ⟨mul2 P t0 n', mul2 P t1 n', mul2 P t2 n'⟩

/-- FQ6 zero (42_extension_tower.md R246). -/
def zero6 : Fq6 := ⟨zero2, zero2, zero2⟩

/-- FQ6 one (42_extension_tower.md R246). -/
def one6 (P : ParamStore) : Fq6 := ⟨one2 P, zero2, zero2⟩

/-- The functions of FQ6 (43_field_instructions.md R280, 42_extension_tower.md R254). -/
def fq6Ops (P : ParamStore) : FieldOps Fq6 where
  zero := zero6
  one := one6 P
  add := add6 P
  sub := sub6 P
  dbl := dbl6 P
  neg := neg6 P
  mul := mul6 P
  sqr := sqr6 P
  inv := inv6 P
  eq := fun a b => a == b
  isZero := fun a => a == zero6
  isOne := fun a => a == one6 P

/-- FQ12 addition, by component (42_extension_tower.md R250). -/
def add12 (P : ParamStore) (a b : Fq12) : Fq12 := ⟨add6 P a.c0 b.c0, add6 P a.c1 b.c1⟩

/-- FQ12 subtraction, by component (42_extension_tower.md R250). -/
def sub12 (P : ParamStore) (a b : Fq12) : Fq12 := ⟨sub6 P a.c0 b.c0, sub6 P a.c1 b.c1⟩

/-- FQ12 doubling, by component (42_extension_tower.md R250). -/
def dbl12 (P : ParamStore) (a : Fq12) : Fq12 := ⟨dbl6 P a.c0, dbl6 P a.c1⟩

/-- FQ12 negation, by component (42_extension_tower.md R250). -/
def neg12 (P : ParamStore) (a : Fq12) : Fq12 := ⟨neg6 P a.c0, neg6 P a.c1⟩

/-- FQ12 multiplication over FQ6 with w² = v (42_extension_tower.md R250). -/
def mul12 (P : ParamStore) (a b : Fq12) : Fq12 :=
  let v0 := mul6 P a.c0 b.c0
  let v1 := mul6 P a.c1 b.c1
  { c0 := add6 P v0 (mulnr6 P v1)
    c1 := sub6 P (sub6 P (mul6 P (add6 P a.c0 a.c1) (add6 P b.c0 b.c1)) v0) v1 }

/-- FQ12 squaring (42_extension_tower.md R250). -/
def sqr12 (P : ParamStore) (a : Fq12) : Fq12 := mul12 P a a

/-- FQ12 conjugation, w ↦ -w (42_extension_tower.md R250). -/
def conj12 (P : ParamStore) (a : Fq12) : Fq12 := ⟨a.c0, neg6 P a.c1⟩

/-- FQ12 inverse through the norm to FQ6 (42_extension_tower.md R250). -/
def inv12 (P : ParamStore) (a : Fq12) : Option Fq12 :=
  match inv6 P (sub6 P (sqr6 P a.c0) (mulnr6 P (sqr6 P a.c1))) with
  | none => none
  | some n => some ⟨mul6 P a.c0 n, neg6 P (mul6 P a.c1 n)⟩

/-- FQ12 zero (42_extension_tower.md R249). -/
def zero12 : Fq12 := ⟨zero6, zero6⟩

/-- FQ12 one (42_extension_tower.md R249). -/
def one12 (P : ParamStore) : Fq12 := ⟨one6 P, zero6⟩

/-- The functions of FQ12 (43_field_instructions.md R280, 42_extension_tower.md R254). -/
def fq12Ops (P : ParamStore) : FieldOps Fq12 where
  zero := zero12
  one := one12 P
  add := add12 P
  sub := sub12 P
  dbl := dbl12 P
  neg := neg12 P
  mul := mul12 P
  sqr := sqr12 P
  inv := inv12 P
  eq := fun a b => a == b
  isZero := fun a => a == zero12
  isOne := fun a => a == one12 P

/-- The Frobenius map of index `i` on FQ2 (42_extension_tower.md R253). -/
def frob2 (P : ParamStore) (a : Fq2) (i : Nat) : Fq2 :=
  if i % 2 = 0 then a else conj2 P a

/-- The Frobenius map of index `i` on FQ6 (42_extension_tower.md R253). -/
def frob6 (P : ParamStore) (a : Fq6) (i : Nat) : Fq6 :=
  let j := i % 6
  have h : j < 6 := Nat.mod_lt i (by decide)
  { c0 := frob2 P a.c0 j
    c1 := mul2 P (frob2 P a.c1 j) (P.frob6C1[j]'h)
    c2 := mul2 P (frob2 P a.c2 j) (P.frob6C2[j]'h) }

/-- The Frobenius map of index `i` on FQ12 (42_extension_tower.md R253). -/
def frob12 (P : ParamStore) (a : Fq12) (i : Nat) : Fq12 :=
  let j := i % 12
  have h : j < 12 := Nat.mod_lt i (by decide)
  let c := P.frob12C1[j]'h
  let d := frob6 P a.c1 j
  { c0 := frob6 P a.c0 j
    c1 := ⟨mul2 P d.c0 c, mul2 P d.c1 c, mul2 P d.c2 c⟩ }

end Sys2Proof.Machine
end

