-- ==== Sys2Proof/Machine/Curve.lean ====
section
/-!
DEFINITION. The point functions of the point adder (44_curve_group_law.md), over the functions of the
coordinate field, and the per-group table (45_curve_instructions.md R370).
-/

namespace Sys2Proof.Machine

open Config

/-- `toproj_W` (44_curve_group_law.md R325). -/
def toprojW {K : Type} (F : FieldOps K) (a : AffinePoint K) : ProjPoint K :=
  if a.inf then ⟨F.zero, F.one, F.zero⟩ else ⟨a.x, a.y, F.one⟩

/-- `toproj_E` (44_curve_group_law.md R325). -/
def toprojE (P : ParamStore) (a : EdAffine) : EdExtended :=
  ⟨a.x, a.y, montMul P.fr a.x a.y, P.fr.one⟩

/-- `toaff_W` (44_curve_group_law.md R326): Z = 0 gives the flagged identity. DESIGN CHOICE (log 10):
on a parameter set that is no conforming one a nonzero Z may have no inverse, a case for which no rule
gives the result (93_implementation_defined.md section 2); the model answers the flagged identity
(0, 1, 1) there too. In a conforming instance every nonzero Z has its inverse. -/
def toaffW {K : Type} (F : FieldOps K) (p : ProjPoint K) : AffinePoint K :=
  match F.isZero p.z, F.inv p.z with
  | false, some z => ⟨F.mul p.x z, F.mul p.y z, false⟩
  | _, _ => ⟨F.zero, F.one, true⟩

/-- `toaff_E` (44_curve_group_law.md R326): Z = 0 gives None. -/
def toaffE (P : ParamStore) (p : EdExtended) : Option EdAffine :=
  match finv P.fr p.z with
  | none => none
  | some z => some ⟨montMul P.fr p.x z, montMul P.fr p.y z⟩

/-- `add_W` (44_curve_group_law.md R327): the 33 steps in the rule's order. -/
def addW {K : Type} (F : FieldOps K) (b3 : K) (p q : ProjPoint K) : ProjPoint K :=
  let t0 := F.mul p.x q.x
  let t1 := F.mul p.y q.y
  let t2 := F.mul p.z q.z
  let t3 := F.add p.x p.y
  let t4 := F.add q.x q.y
  let t3 := F.mul t3 t4
  let t4 := F.add t0 t1
  let t3 := F.sub t3 t4
  let t4 := F.add p.y p.z
  let x3 := F.add q.y q.z
  let t4 := F.mul t4 x3
  let x3 := F.add t1 t2
  let t4 := F.sub t4 x3
  let x3 := F.add p.x p.z
  let y3 := F.add q.x q.z
  let x3 := F.mul x3 y3
  let y3 := F.add t0 t2
  let y3 := F.sub x3 y3
  let x3 := F.add t0 t0
  let t0 := F.add x3 t0
  let t2 := F.mul b3 t2
  let z3 := F.add t1 t2
  let t1 := F.sub t1 t2
  let y3 := F.mul b3 y3
  let x3 := F.mul t4 y3
  let t2 := F.mul t3 t1
  let x3 := F.sub t2 x3
  let y3 := F.mul y3 t0
  let t1 := F.mul t1 z3
  let y3 := F.add t1 y3
  let t0 := F.mul t0 t3
  let z3 := F.mul z3 t4
  let z3 := F.add z3 t0
  ⟨x3, y3, z3⟩

/-- `dbl_W` (44_curve_group_law.md R328): the 18 steps in the rule's order. -/
def dblW {K : Type} (F : FieldOps K) (b3 : K) (p : ProjPoint K) : ProjPoint K :=
  let t0 := F.mul p.y p.y
  let z3 := F.add t0 t0
  let z3 := F.add z3 z3
  let z3 := F.add z3 z3
  let t1 := F.mul p.y p.z
  let t2 := F.mul p.z p.z
  let t2 := F.mul b3 t2
  let x3 := F.mul t2 z3
  let y3 := F.add t0 t2
  let z3 := F.mul t1 z3
  let t1 := F.add t2 t2
  let t2 := F.add t1 t2
  let t0 := F.sub t0 t2
  let y3 := F.mul t0 y3
  let y3 := F.add x3 y3
  let t1 := F.mul p.x p.y
  let x3 := F.mul t0 t1
  let x3 := F.add x3 x3
  ⟨x3, y3, z3⟩

/-- `add_E` (44_curve_group_law.md R329): C is (T1·d)·T2 and H is B - (a·A). -/
def addE (P : ParamStore) (p q : EdExtended) : EdExtended :=
  let F := frOps P
  let a := F.mul p.x q.x
  let b := F.mul p.y q.y
  let c := F.mul (F.mul p.t P.edD) q.t
  let d := F.mul p.z q.z
  let e := F.sub (F.sub (F.mul (F.add p.x p.y) (F.add q.x q.y)) a) b
  let f := F.sub d c
  let g := F.add d c
  let h := F.sub b (F.mul P.edA a)
  ⟨F.mul e f, F.mul g h, F.mul e h, F.mul f g⟩

/-- `dbl_E` (44_curve_group_law.md R330): T1 is not read. -/
def dblE (P : ParamStore) (p : EdExtended) : EdExtended :=
  let F := frOps P
  let a := F.mul p.x p.x
  let b := F.mul p.y p.y
  let c := F.dbl (F.mul p.z p.z)
  let d := F.mul P.edA a
  let e := F.sub (F.sub (F.mul (F.add p.x p.y) (F.add p.x p.y)) a) b
  let g := F.add d b
  let f := F.sub g c
  let h := F.sub d b
  ⟨F.mul e f, F.mul g h, F.mul e h, F.mul f g⟩

/-- `neg_WP` (44_curve_group_law.md R331). -/
def negWP {K : Type} (F : FieldOps K) (p : ProjPoint K) : ProjPoint K :=
  ⟨p.x, F.neg p.y, p.z⟩

/-- `neg_WA` (44_curve_group_law.md R331): None for the flagged identity. -/
def negWA {K : Type} (F : FieldOps K) (a : AffinePoint K) : Option (AffinePoint K) :=
  if a.inf then none else some ⟨a.x, F.neg a.y, false⟩

/-- `neg_EE` (44_curve_group_law.md R331; 90_conflicts.md C3). -/
def negEE (P : ParamStore) (p : EdExtended) : EdExtended :=
  ⟨fneg P.fr p.x, p.y, fneg P.fr p.t, p.z⟩

/-- `neg_EA` (44_curve_group_law.md R331; 90_conflicts.md C3): None for the identity (0, 1). -/
def negEA (P : ParamStore) (a : EdAffine) : Option EdAffine :=
  if a.x = 0 ∧ a.y = P.fr.one then none else some ⟨fneg P.fr a.x, a.y⟩

/-- `eq_WP` (44_curve_group_law.md R332). -/
def eqWP {K : Type} (F : FieldOps K) (p q : ProjPoint K) : Bool :=
  F.eq (F.mul p.x q.z) (F.mul q.x p.z) && F.eq (F.mul p.y q.z) (F.mul q.y p.z)

/-- `eq_EE` (44_curve_group_law.md R332). -/
def eqEE (P : ParamStore) (p q : EdExtended) : Bool :=
  let F := frOps P
  F.eq (F.mul p.x q.z) (F.mul q.x p.z) && F.eq (F.mul p.y q.z) (F.mul q.y p.z)

/-- `eq_WA` (44_curve_group_law.md R332). -/
def eqWA {K : Type} (F : FieldOps K) (a b : AffinePoint K) : Bool :=
  (a.inf == b.inf) && (a.inf || (F.eq a.x b.x && F.eq a.y b.y))

/-- `eq_EA` (44_curve_group_law.md R332). -/
def eqEA (a b : EdAffine) : Bool :=
  a.x == b.x && a.y == b.y

/-- `isid` of G1A and G2A (44_curve_group_law.md R333): only the flag is read. -/
def isidWA {K : Type} (a : AffinePoint K) : Bool := a.inf

/-- `isid` of G1P and G2P (44_curve_group_law.md R333). -/
def isidWP {K : Type} (F : FieldOps K) (p : ProjPoint K) : Bool := F.isZero p.z

/-- `isid` of EDA (44_curve_group_law.md R333). -/
def isidEA (P : ParamStore) (a : EdAffine) : Bool := a.x == 0 && a.y == P.fr.one

/-- `isid` of EDE (44_curve_group_law.md R333; 90_conflicts.md C2). -/
def isidEE (p : EdExtended) : Bool := p.x == 0 && p.y == p.z

/-- `OnCurveAff_G` (44_curve_group_law.md R334). -/
def onCurveWA {K : Type} (F : FieldOps K) (b : K) (a : AffinePoint K) : Bool :=
  a.inf || F.eq (F.sqr a.y) (F.add (F.mul (F.sqr a.x) a.x) b)

/-- `OnCurveProj_G` (44_curve_group_law.md R334). -/
def onCurveWP {K : Type} (F : FieldOps K) (b : K) (p : ProjPoint K) : Bool :=
  if F.isZero p.z then F.isZero p.x && !F.isZero p.y
  else F.eq (F.mul (F.sqr p.y) p.z)
    (F.add (F.mul (F.sqr p.x) p.x) (F.mul b (F.mul (F.sqr p.z) p.z)))

/-- `OnCurveAff_ED` (44_curve_group_law.md R334). -/
def onCurveEA (P : ParamStore) (a : EdAffine) : Bool :=
  let F := frOps P
  let xx := F.sqr a.x
  let yy := F.sqr a.y
  F.eq (F.add (F.mul P.edA xx) yy) (F.add F.one (F.mul (F.mul P.edD xx) yy))

/-- `OnCurveExt_ED` (44_curve_group_law.md R334). -/
def onCurveEE (P : ParamStore) (p : EdExtended) : Bool :=
  let F := frOps P
  let xx := F.sqr p.x
  let yy := F.sqr p.y
  let zz := F.sqr p.z
  !F.isZero p.z && F.eq (F.mul p.x p.y) (F.mul p.t p.z) &&
    F.eq (F.mul (F.add (F.mul P.edA xx) yy) zz) (F.add (F.sqr zz) (F.mul (F.mul P.edD xx) yy))

/-- The functions of one curve group: `A` is its affine form, `E` its projective or extended form
(45_curve_instructions.md R370). -/
structure GroupOps (A E : Type) where
  identityA : A
  identityE : E
  toProj : A → E
  toAff : E → Option A
  add : E → E → E
  dbl : E → E
  negE : E → E
  negA : A → Option A
  eqE : E → E → Bool
  eqA : A → A → Bool
  isidE : E → Bool
  isidA : A → Bool
  onCurveE : E → Bool
  onCurveA : A → Bool

/-- A short-Weierstrass group over a coordinate field, with b and 3·b (44_curve_group_law.md R320). -/
def weierstrassOps {K : Type} (F : FieldOps K) (b b3 : K) : GroupOps (AffinePoint K) (ProjPoint K) where
  identityA := ⟨F.zero, F.one, true⟩
  identityE := ⟨F.zero, F.one, F.zero⟩
  toProj := toprojW F
  toAff := fun p => some (toaffW F p)
  add := addW F b3
  dbl := dblW F b3
  negE := negWP F
  negA := negWA F
  eqE := eqWP F
  eqA := eqWA F
  isidE := isidWP F
  isidA := isidWA
  onCurveE := onCurveWP F b
  onCurveA := onCurveWA F b

/-- G1, over FQ (44_curve_group_law.md R320). -/
def g1Ops (P : ParamStore) : GroupOps (AffinePoint Fq) (ProjPoint Fq) :=
  weierstrassOps (fqOps P) P.bG1 P.b3G1

/-- G2, over FQ2 (44_curve_group_law.md R320). -/
def g2Ops (P : ParamStore) : GroupOps (AffinePoint Fq2) (ProjPoint Fq2) :=
  weierstrassOps (fq2Ops P) P.bG2 P.b3G2

/-- ED, the twisted-Edwards group over FR (44_curve_group_law.md R320). -/
def edOps (P : ParamStore) : GroupOps EdAffine EdExtended where
  identityA := ⟨0, P.fr.one⟩
  identityE := ⟨0, P.fr.one, 0, P.fr.one⟩
  toProj := toprojE P
  toAff := toaffE P
  add := addE P
  dbl := dblE P
  negE := negEE P
  negA := negEA P
  eqE := eqEE P
  eqA := eqEA
  isidE := isidEE
  isidA := isidEA P
  onCurveE := onCurveEE P
  onCurveA := onCurveEA P

end Sys2Proof.Machine
end

