-- ==== Sys2Proof/Machine/ScalarMultiplier.lean ====
section
/-!
DEFINITION. The scalar multiplier: NAF recoding and the double-and-add loop (46_scalar_multiplier.md).
-/

namespace Sys2Proof.Machine

/-- A NAF digit: -1, 0 or 1 (46_scalar_multiplier.md R400). -/
inductive NafDigit where
  | minusOne
  | zero
  | one
deriving DecidableEq, Repr

/-- NAF_LEN (00_scope.md R6). -/
def nafLength : Nat := 257

/-- The next digit: 0 for an even k, else 2 - (k mod 4) (46_scalar_multiplier.md R400). -/
def nafDigit (k : Nat) : NafDigit :=
  if k % 2 = 1 then if k % 4 = 1 then .one else .minusOne else .zero

/-- What is left of k after its next digit: (k - d) / 2 (46_scalar_multiplier.md R400). -/
def nafRest (k : Nat) : Nat :=
  match nafDigit k with
  | .one => (k - 1) / 2
  | .minusOne => (k + 1) / 2
  | .zero => k / 2

/-- The first `n` digits of k, least significant first (46_scalar_multiplier.md R400). When k is
used up every further digit is 0, the rule's padding. -/
def nafDigits : (n k : Nat) → List NafDigit
  | 0, _ => []
  | n + 1, k => nafDigit k :: nafDigits n (nafRest k)

/-- `naf(k)`: 257 digits, least significant first (46_scalar_multiplier.md R400). -/
def naf (k : Nat) : List NafDigit := nafDigits nafLength k

/-- One iteration of the loop: double, add P or -P, keep the sum when the digit is not 0
(46_scalar_multiplier.md R403; 90_conflicts.md C7). -/
def smulStep {A E : Type} (G : GroupOps A E) (p np : E) (d : NafDigit) (acc : E) : E :=
  let acc := G.dbl acc
  match d with
  | .zero => acc
  | .one => G.add acc p
  | .minusOne => G.add acc np

/-- The loop over digits 256 down to 0 from the identity (46_scalar_multiplier.md R403): the fold
takes the last digit of the list, the most significant, first. -/
def smul {A E : Type} (G : GroupOps A E) (p : E) (k : Nat) : E :=
  (naf k).foldr (smulStep G p (G.negE p)) G.identityE

end Sys2Proof.Machine
end

