-- ==== Sys2Proof/Machine/Operands.lean ====
section
/-!
DEFINITION. The operand forms: the checks of 60_exceptions.md R425 (steps 3 to 6), the source
registers with their tags (30_encoding.md R128), the operand conversion of the curve commands
(45_curve_instructions.md R370), and the per-type dispatch (43_field_instructions.md R280,
45_curve_instructions.md R370). A fault is an `Except.error`; the first one met is the one taken.
-/

namespace Sys2Proof.Machine

open Config

/-- The tag of a register's value (10_state.md R32). -/
def tagOf : Value → TCode
  | .empty => .empty
  | .bool _ => .bool
  | .fr _ => .fr
  | .fq _ => .fq
  | .fq2 _ => .fq2
  | .fq6 _ => .fq6
  | .fq12 _ => .fq12
  | .g1a _ => .g1a
  | .g1p _ => .g1p
  | .g2a _ => .g2a
  | .g2p _ => .g2p
  | .eda _ => .eda
  | .ede _ => .ede

/-- Raise a fault unless a check holds (60_exceptions.md R425). -/
def check (ok : Bool) (code : FaultCode) : Except FaultCode Unit :=
  if ok then .ok () else .error code

/-- Step 3: T is admitted by the opcode (30_encoding.md R127). -/
def checkType (t : TCode) (admittedT : List TCode) : Except FaultCode Unit :=
  check (decide (t ∈ admittedT)) .illegalType

/-- Step 4: the immediate is legal. -/
def checkImm (legal : Bool) : Except FaultCode Unit :=
  check legal .illegalImm

/-- Step 5: the range of a format M command lies in IOBUF. -/
def checkRange (t : TCode) (off : BitVec 10) : Except FaultCode Unit :=
  check (rangeLegal t off) .iobufRange

/-- Step 6 for one source: EMPTY faults EMPTY_OPERAND, another tag than the required ones faults
TYPE_MISMATCH; else the value read (30_encoding.md R128). -/
def source (s : State) (r : Reg) (required : List TCode) : Except FaultCode Value :=
  if tagOf (s.reg r) = .empty then .error .emptyOperand
  else if tagOf (s.reg r) ∈ required then .ok (s.reg r)
  else .error .typeMismatch

/-- A two-operand field function on two values of one tag (43_field_instructions.md R280). -/
def fieldBinary (P : ParamStore) (op : (K : Type) → FieldOps K → K → K → K) :
    Value → Value → Except FaultCode Value
  | .fr a, .fr b => .ok (.fr (op Fr (frOps P) a b))
  | .fq a, .fq b => .ok (.fq (op Fq (fqOps P) a b))
  | .fq2 a, .fq2 b => .ok (.fq2 (op Fq2 (fq2Ops P) a b))
  | .fq6 a, .fq6 b => .ok (.fq6 (op Fq6 (fq6Ops P) a b))
  | .fq12 a, .fq12 b => .ok (.fq12 (op Fq12 (fq12Ops P) a b))
  | _, _ => .error .typeMismatch

/-- A one-operand field function (43_field_instructions.md R280). -/
def fieldUnary (P : ParamStore) (op : (K : Type) → FieldOps K → K → K) :
    Value → Except FaultCode Value
  | .fr a => .ok (.fr (op Fr (frOps P) a))
  | .fq a => .ok (.fq (op Fq (fqOps P) a))
  | .fq2 a => .ok (.fq2 (op Fq2 (fq2Ops P) a))
  | .fq6 a => .ok (.fq6 (op Fq6 (fq6Ops P) a))
  | .fq12 a => .ok (.fq12 (op Fq12 (fq12Ops P) a))
  | _ => .error .typeMismatch

/-- The inverse of a field value; none is the None result (43_field_instructions.md R280, R287). -/
def fieldInverse (P : ParamStore) : Value → Except FaultCode (Option Value)
  | .fr a => .ok (((frOps P).inv a).map .fr)
  | .fq a => .ok (((fqOps P).inv a).map .fq)
  | .fq2 a => .ok (((fq2Ops P).inv a).map .fq2)
  | .fq6 a => .ok (((fq6Ops P).inv a).map .fq6)
  | .fq12 a => .ok (((fq12Ops P).inv a).map .fq12)
  | _ => .error .typeMismatch

/-- A test of one field value (43_field_instructions.md R280). -/
def fieldTest (P : ParamStore) (op : (K : Type) → FieldOps K → K → Bool) :
    Value → Except FaultCode Bool
  | .fr a => .ok (op Fr (frOps P) a)
  | .fq a => .ok (op Fq (fqOps P) a)
  | .fq2 a => .ok (op Fq2 (fq2Ops P) a)
  | .fq6 a => .ok (op Fq6 (fq6Ops P) a)
  | .fq12 a => .ok (op Fq12 (fq12Ops P) a)
  | _ => .error .typeMismatch

/-- A test of two field values of one tag (43_field_instructions.md R280). -/
def fieldCompare (P : ParamStore) (op : (K : Type) → FieldOps K → K → K → Bool) :
    Value → Value → Except FaultCode Bool
  | .fr a, .fr b => .ok (op Fr (frOps P) a b)
  | .fq a, .fq b => .ok (op Fq (fqOps P) a b)
  | .fq2 a, .fq2 b => .ok (op Fq2 (fq2Ops P) a b)
  | .fq6 a, .fq6 b => .ok (op Fq6 (fq6Ops P) a b)
  | .fq12 a, .fq12 b => .ok (op Fq12 (fq12Ops P) a b)
  | _, _ => .error .typeMismatch

/-- `asproj` for G1P: an affine operand is converted first (45_curve_instructions.md R370). -/
def g1Operand (P : ParamStore) : Value → Except FaultCode (ProjPoint Fq)
  | .g1p p => .ok p
  | .g1a a => .ok ((g1Ops P).toProj a)
  | _ => .error .typeMismatch

/-- `asproj` for G2P (45_curve_instructions.md R370). -/
def g2Operand (P : ParamStore) : Value → Except FaultCode (ProjPoint Fq2)
  | .g2p p => .ok p
  | .g2a a => .ok ((g2Ops P).toProj a)
  | _ => .error .typeMismatch

/-- `asproj` for EDE (45_curve_instructions.md R370). -/
def edOperand (P : ParamStore) : Value → Except FaultCode EdExtended
  | .ede p => .ok p
  | .eda a => .ok ((edOps P).toProj a)
  | _ => .error .typeMismatch

/-- A one-point function of the group of T in PROJ (45_curve_instructions.md R370). -/
def pointUnary (P : ParamStore) (op : (A E : Type) → GroupOps A E → E → E) (t : TCode) (x : Value) :
    Except FaultCode Value :=
  match t with
  | .g1p => (g1Operand P x).map fun p => .g1p (op _ _ (g1Ops P) p)
  | .g2p => (g2Operand P x).map fun p => .g2p (op _ _ (g2Ops P) p)
  | .ede => (edOperand P x).map fun p => .ede (op _ _ (edOps P) p)
  | _ => .error .illegalType

/-- A two-point function of the group of T in PROJ (45_curve_instructions.md R370). -/
def pointBinary (P : ParamStore) (op : (A E : Type) → GroupOps A E → E → E → E) (t : TCode)
    (x y : Value) : Except FaultCode Value :=
  match t with
  | .g1p => (g1Operand P x).bind fun p => (g1Operand P y).map fun q => .g1p (op _ _ (g1Ops P) p q)
  | .g2p => (g2Operand P x).bind fun p => (g2Operand P y).map fun q => .g2p (op _ _ (g2Ops P) p q)
  | .ede => (edOperand P x).bind fun p => (edOperand P y).map fun q => .ede (op _ _ (edOps P) p q)
  | _ => .error .illegalType

/-- Negation of a point of any form; none is the None result (45_curve_instructions.md R373). -/
def pointNegate (P : ParamStore) : Value → Except FaultCode (Option Value)
  | .g1p p => .ok (some (.g1p ((g1Ops P).negE p)))
  | .g2p p => .ok (some (.g2p ((g2Ops P).negE p)))
  | .ede p => .ok (some (.ede ((edOps P).negE p)))
  | .g1a a => .ok (((g1Ops P).negA a).map .g1a)
  | .g2a a => .ok (((g2Ops P).negA a).map .g2a)
  | .eda a => .ok (((edOps P).negA a).map .eda)
  | _ => .error .typeMismatch

/-- Conversion of an affine point to its projective or extended form (45_curve_instructions.md
R374). -/
def pointToProj (P : ParamStore) : Value → Except FaultCode Value
  | .g1a a => .ok (.g1p ((g1Ops P).toProj a))
  | .g2a a => .ok (.g2p ((g2Ops P).toProj a))
  | .eda a => .ok (.ede ((edOps P).toProj a))
  | _ => .error .typeMismatch

/-- Conversion of a projective or extended point to its affine form; none is the None result
(45_curve_instructions.md R375). -/
def pointToAff (P : ParamStore) : Value → Except FaultCode (Option Value)
  | .g1p p => .ok (((g1Ops P).toAff p).map .g1a)
  | .g2p p => .ok (((g2Ops P).toAff p).map .g2a)
  | .ede p => .ok (((edOps P).toAff p).map .eda)
  | _ => .error .typeMismatch

/-- Equality of two points of one form (45_curve_instructions.md R376). -/
def pointEqual (P : ParamStore) : Value → Value → Except FaultCode Bool
  | .g1p p, .g1p q => .ok ((g1Ops P).eqE p q)
  | .g2p p, .g2p q => .ok ((g2Ops P).eqE p q)
  | .ede p, .ede q => .ok ((edOps P).eqE p q)
  | .g1a p, .g1a q => .ok ((g1Ops P).eqA p q)
  | .g2a p, .g2a q => .ok ((g2Ops P).eqA p q)
  | .eda p, .eda q => .ok ((edOps P).eqA p q)
  | _, _ => .error .typeMismatch

/-- The identity test of a point of any form (45_curve_instructions.md R377). -/
def pointIsId (P : ParamStore) : Value → Except FaultCode Bool
  | .g1p p => .ok ((g1Ops P).isidE p)
  | .g2p p => .ok ((g2Ops P).isidE p)
  | .ede p => .ok ((edOps P).isidE p)
  | .g1a a => .ok ((g1Ops P).isidA a)
  | .g2a a => .ok ((g2Ops P).isidA a)
  | .eda a => .ok ((edOps P).isidA a)
  | _ => .error .typeMismatch

/-- `OnCurve_T` of a point of any form (45_curve_instructions.md R378). -/
def pointOnCurve (P : ParamStore) : Value → Except FaultCode Bool
  | .g1p p => .ok ((g1Ops P).onCurveE p)
  | .g2p p => .ok ((g2Ops P).onCurveE p)
  | .ede p => .ok ((edOps P).onCurveE p)
  | .g1a a => .ok ((g1Ops P).onCurveA a)
  | .g2a a => .ok ((g2Ops P).onCurveA a)
  | .eda a => .ok ((edOps P).onCurveA a)
  | _ => .error .typeMismatch

/-- The value CONST makes (40_data_movement.md R171): zero or one of a field, false or true, the
identity of a point type. -/
def constValue (P : ParamStore) (t : TCode) (k : BitVec 10) : Except FaultCode Value :=
  match t with
  | .bool => .ok (.bool (k == 1))
  | .fr => .ok (.fr (if k = 0 then (frOps P).zero else (frOps P).one))
  | .fq => .ok (.fq (if k = 0 then (fqOps P).zero else (fqOps P).one))
  | .fq2 => .ok (.fq2 (if k = 0 then (fq2Ops P).zero else (fq2Ops P).one))
  | .fq6 => .ok (.fq6 (if k = 0 then (fq6Ops P).zero else (fq6Ops P).one))
  | .fq12 => .ok (.fq12 (if k = 0 then (fq12Ops P).zero else (fq12Ops P).one))
  | .g1a => .ok (.g1a (g1Ops P).identityA)
  | .g1p => .ok (.g1p (g1Ops P).identityE)
  | .g2a => .ok (.g2a (g2Ops P).identityA)
  | .g2p => .ok (.g2p (g2Ops P).identityE)
  | .eda => .ok (.eda (edOps P).identityA)
  | .ede => .ok (.ede (edOps P).identityE)
  | _ => .error .illegalType

/-- A boolean operand (40_data_movement.md R172). -/
def boolOperand : Value → Except FaultCode Bool
  | .bool b => .ok b
  | _ => .error .typeMismatch

/-- A scalar operand: the canonical integer of an FR value, never its Montgomery form
(46_scalar_multiplier.md R402). -/
def scalarOperand (P : ParamStore) : Value → Except FaultCode Nat
  | .fr m => .ok (valOf P.fr m)
  | _ => .error .typeMismatch

/-- The result of a command that writes a value or gives None (60_exceptions.md R432). -/
def putOrNone (d : Reg) : Option Value → Effect
  | some x => .put d x
  | none => .noneResult d

/-- The result of a load: a value, or DECFAIL (60_exceptions.md R431). -/
def putOrDecfail (d : Reg) : Option Value → Effect
  | some x => .put d x
  | none => .decodeFailure d

end Sys2Proof.Machine
end

