-- ==== Sys2Proof/Machine/CurveCommands.lean ====
section
/-!
DEFINITION. The curve commands: PADD, PDBL, PNEG, TOPROJ, TOAFF, PEQ, ISID, ONCURVE
(45_curve_instructions.md R371 to R378), and PSMUL (46_scalar_multiplier.md R403).
-/

namespace Sys2Proof.Machine

/-- PADD (45_curve_instructions.md R371): each operand is of T or its affine form. -/
def execPadd (t : TCode) (d a b : Reg) (s : State) : Host.Outcome State Fault Refusal :=
  complete (do
    checkType t projTypes
    let x ← source s a [t, affOf t]
    let y ← source s b [t, affOf t]
    let r ← pointBinary s.params (fun _ _ G => G.add) t x y
    pure (.put d r)) s

/-- PDBL (45_curve_instructions.md R372). -/
def execPdbl (t : TCode) (d a : Reg) (s : State) : Host.Outcome State Fault Refusal :=
  complete (do
    checkType t projTypes
    let x ← source s a [t, affOf t]
    let r ← pointUnary s.params (fun _ _ G => G.dbl) t x
    pure (.put d r)) s

/-- PNEG (45_curve_instructions.md R373): None for an affine identity. -/
def execPneg (t : TCode) (d a : Reg) (s : State) : Host.Outcome State Fault Refusal :=
  complete (do
    checkType t pointTypes
    let x ← source s a [t]
    let r ← pointNegate s.params x
    pure (putOrNone d r)) s

/-- PSMUL (46_scalar_multiplier.md R403): A is checked before B. -/
def execPsmul (t : TCode) (d a b : Reg) (s : State) : Host.Outcome State Fault Refusal :=
  complete (do
    checkType t projTypes
    let x ← source s a [t, affOf t]
    let y ← source s b [.fr]
    let k ← scalarOperand s.params y
    let r ← pointUnary s.params (fun _ _ G p => smul G p k) t x
    pure (.put d r)) s

/-- TOPROJ (45_curve_instructions.md R374): the source is of aff(T). -/
def execToproj (t : TCode) (d a : Reg) (s : State) : Host.Outcome State Fault Refusal :=
  complete (do
    checkType t projTypes
    let x ← source s a [affOf t]
    let r ← pointToProj s.params x
    pure (.put d r)) s

/-- TOAFF (45_curve_instructions.md R375): the source is of proj(T). -/
def execToaff (t : TCode) (d a : Reg) (s : State) : Host.Outcome State Fault Refusal :=
  complete (do
    checkType t affTypes
    let x ← source s a [projOf t]
    let r ← pointToAff s.params x
    pure (putOrNone d r)) s

/-- PEQ (45_curve_instructions.md R376). -/
def execPeq (t : TCode) (d a b : Reg) (s : State) : Host.Outcome State Fault Refusal :=
  complete (do
    checkType t pointTypes
    let x ← source s a [t]
    let y ← source s b [t]
    let r ← pointEqual s.params x y
    pure (.put d (.bool r))) s

/-- ISID (45_curve_instructions.md R377). -/
def execIsid (t : TCode) (d a : Reg) (s : State) : Host.Outcome State Fault Refusal :=
  complete (do
    checkType t pointTypes
    let x ← source s a [t]
    let r ← pointIsId s.params x
    pure (.put d (.bool r))) s

/-- ONCURVE (45_curve_instructions.md R378): the predicate's value, although every reachable state of
a conforming instance gives 1. -/
def execOncurve (t : TCode) (d a : Reg) (s : State) : Host.Outcome State Fault Refusal :=
  complete (do
    checkType t pointTypes
    let x ← source s a [t]
    let r ← pointOnCurve s.params x
    pure (.put d (.bool r))) s

end Sys2Proof.Machine
end

