-- ==== Sys2Proof/Machine/Codec.lean ====
section
/-!
DEFINITION. The IOBUF layouts (40_data_movement.md R161), canonical decode and encode (R162, R163)
and raw decode and encode (R164). Word offsets count from the command's offset.
-/

namespace Sys2Proof.Machine

open Config

/-- A way to read one base-field coefficient at a word offset: canonical (`dec_F`) or raw
(`rdec_F`). -/
structure CoeffReader where
  fr : Nat → Option Fr
  fq : Nat → Option Fq

/-- The integer of N_F limbs at a word offset (20_memory.md R84, R86). -/
def readLimbs {w : Nat} (s : State) (_F : BaseField w) (off : Nat) : Nat :=
  s.memRead (8 * off) (8 * limbCount w)

/-- `dec_F` (40_data_movement.md R162): canonical, rejected when not below the modulus. -/
def decCanonical {w : Nat} (s : State) (F : BaseField w) (off : Nat) : Option (BitVec w) :=
  let v := readLimbs s F off
  if inRange F v then some (montOf F (v % F.p.toNat)) else none

/-- `rdec_F` (40_data_movement.md R164): the limbs unchanged, rejected when not below the modulus. -/
def decRaw {w : Nat} (s : State) (F : BaseField w) (off : Nat) : Option (BitVec w) :=
  let v := readLimbs s F off
  if inRange F v then some (BitVec.ofNat w v) else none

/-- The canonical reader of a state. -/
def canonicalReader (s : State) : CoeffReader where
  fr := decCanonical s s.params.fr
  fq := decCanonical s s.params.fq

/-- The raw reader of a state. -/
def rawReader (s : State) : CoeffReader where
  fr := decRaw s s.params.fr
  fq := decRaw s s.params.fq

/-- An FQ2 element at a word offset (40_data_movement.md R161). -/
def readFq2 (R : CoeffReader) (off : Nat) : Option Fq2 :=
  match R.fq off, R.fq (off + 6) with
  | some a, some b => some ⟨a, b⟩
  | _, _ => none

/-- An FQ6 element at a word offset (40_data_movement.md R161). -/
def readFq6 (R : CoeffReader) (off : Nat) : Option Fq6 :=
  match readFq2 R off, readFq2 R (off + 12), readFq2 R (off + 24) with
  | some a, some b, some c => some ⟨a, b, c⟩
  | _, _, _ => none

/-- An FQ12 element at a word offset (40_data_movement.md R161). -/
def readFq12 (R : CoeffReader) (off : Nat) : Option Fq12 :=
  match readFq6 R off, readFq6 R (off + 36) with
  | some a, some b => some ⟨a, b⟩
  | _, _ => none

/-- A short-Weierstrass affine point (40_data_movement.md R162): a flag of 1 is the identity whatever
the coordinate words hold, a flag of 0 asks for canonical coordinates on the curve, any other flag
fails. `n` is the size of a coordinate in words. -/
def readAffine {K : Type} (s : State) (G : GroupOps (AffinePoint K) (ProjPoint K))
    (coord : Nat → Option K) (n off : Nat) : Option (AffinePoint K) :=
  if s.iobufWord (off + 2 * n) = 1 then some G.identityA
  else if s.iobufWord (off + 2 * n) = 0 then
    match coord off, coord (off + n) with
    | some x, some y => if G.onCurveA ⟨x, y, false⟩ then some ⟨x, y, false⟩ else none
    | _, _ => none
  else none

/-- A short-Weierstrass projective point, kept as given (40_data_movement.md R162). -/
def readProj {K : Type} (G : GroupOps (AffinePoint K) (ProjPoint K)) (coord : Nat → Option K)
    (n off : Nat) : Option (ProjPoint K) :=
  match coord off, coord (off + n), coord (off + 2 * n) with
  | some x, some y, some z => if G.onCurveE ⟨x, y, z⟩ then some ⟨x, y, z⟩ else none
  | _, _, _ => none

/-- An Edwards affine point (40_data_movement.md R162). -/
def readEdAffine (P : ParamStore) (R : CoeffReader) (off : Nat) : Option EdAffine :=
  match R.fr off, R.fr (off + 4) with
  | some x, some y => if onCurveEA P ⟨x, y⟩ then some ⟨x, y⟩ else none
  | _, _ => none

/-- An Edwards extended point, kept as given (40_data_movement.md R162). -/
def readEdExtended (P : ParamStore) (R : CoeffReader) (off : Nat) : Option EdExtended :=
  match R.fr off, R.fr (off + 4), R.fr (off + 8), R.fr (off + 12) with
  | some x, some y, some t, some z => if onCurveEE P ⟨x, y, t, z⟩ then some ⟨x, y, t, z⟩ else none
  | _, _, _, _ => none

/-- A field element of type T read by `R` (40_data_movement.md R162, R164). -/
def readField (R : CoeffReader) (t : TCode) (off : Nat) : Option Value :=
  match t with
  | .fr => (R.fr off).map .fr
  | .fq => (R.fq off).map .fq
  | .fq2 => (readFq2 R off).map .fq2
  | .fq6 => (readFq6 R off).map .fq6
  | .fq12 => (readFq12 R off).map .fq12
  | _ => none

/-- A BOOL word: 0 or 1, any other word fails (40_data_movement.md R162). -/
def readBool (s : State) (off : Nat) : Option Bool :=
  if s.iobufWord off = 0 then some false
  else if s.iobufWord off = 1 then some true
  else none

/-- `dec_T(off)`: canonical decode; none is a failed decode (40_data_movement.md R162). -/
def decodeCanonical (s : State) (t : TCode) (off : Nat) : Option Value :=
  let P := s.params
  let R := canonicalReader s
  match t with
  | .bool => (readBool s off).map .bool
  | .g1a => (readAffine s (g1Ops P) R.fq 6 off).map .g1a
  | .g1p => (readProj (g1Ops P) R.fq 6 off).map .g1p
  | .g2a => (readAffine s (g2Ops P) (readFq2 R) 12 off).map .g2a
  | .g2p => (readProj (g2Ops P) (readFq2 R) 12 off).map .g2p
  | .eda => (readEdAffine P R off).map .eda
  | .ede => (readEdExtended P R off).map .ede
  | t => readField R t off

/-- `rdec_T(off)`: raw decode of a field type (40_data_movement.md R164). -/
def decodeRaw (s : State) (t : TCode) (off : Nat) : Option Value :=
  readField (rawReader s) t off

/-- The consecutive coefficients of an FQ2 element as (words, integer). -/
def chunksFq2 (f : Fq → Nat) (a : Fq2) : List (Nat × Nat) := [(6, f a.c0), (6, f a.c1)]

/-- The consecutive coefficients of an FQ6 element as (words, integer). -/
def chunksFq6 (f : Fq → Nat) (a : Fq6) : List (Nat × Nat) :=
  chunksFq2 f a.c0 ++ chunksFq2 f a.c1 ++ chunksFq2 f a.c2

/-- The words of a value in the layout of 40_data_movement.md R161, as consecutive (words, integer)
pairs, each coefficient turned into an integer by `g` (FR) or `f` (FQ). -/
def chunksOf (g : Fr → Nat) (f : Fq → Nat) : Value → List (Nat × Nat)
  | .empty => []
  | .bool b => [(1, b.toNat)]
  | .fr m => [(4, g m)]
  | .fq m => [(6, f m)]
  | .fq2 a => chunksFq2 f a
  | .fq6 a => chunksFq6 f a
  | .fq12 a => chunksFq6 f a.c0 ++ chunksFq6 f a.c1
  | .g1a p => [(6, f p.x), (6, f p.y), (1, p.inf.toNat)]
  | .g1p p => [(6, f p.x), (6, f p.y), (6, f p.z)]
  | .g2a p => chunksFq2 f p.x ++ chunksFq2 f p.y ++ [(1, p.inf.toNat)]
  | .g2p p => chunksFq2 f p.x ++ chunksFq2 f p.y ++ chunksFq2 f p.z
  | .eda p => [(4, g p.x), (4, g p.y)]
  | .ede p => [(4, g p.x), (4, g p.y), (4, g p.t), (4, g p.z)]

/-- `enc_T`: the canonical integers of a value (40_data_movement.md R163). -/
def encodeCanonical (P : ParamStore) (x : Value) : List (Nat × Nat) :=
  chunksOf (valOf P.fr) (valOf P.fq) x

/-- `renc_T`: the limbs of a value unchanged (40_data_movement.md R164). -/
def encodeRaw (x : Value) : List (Nat × Nat) :=
  chunksOf BitVec.toNat BitVec.toNat x

end Sys2Proof.Machine
end

