-- ==== Sys2Proof/Machine/DataMovement.lean ====
section
/-!
DEFINITION. The data movement commands: NOP, LD, ST, LDM, STM, MOV, CONST, SEL
(40_data_movement.md R165 to R172). Each runs the checks of 60_exceptions.md R425 in their order.
-/

namespace Sys2Proof.Machine

/-- NOP (40_data_movement.md R165). -/
def execNop (s : State) : Host.Outcome State Fault Refusal :=
  complete (.ok .nothing) s

/-- LD (40_data_movement.md R166). -/
def execLd (t : TCode) (d : Reg) (off : BitVec 10) (s : State) : Host.Outcome State Fault Refusal :=
  complete (do
    checkType t allTypes
    checkRange t off
    pure (putOrDecfail d (decodeCanonical s t off.toNat))) s

/-- ST (40_data_movement.md R167). -/
def execSt (t : TCode) (d : Reg) (off : BitVec 10) (s : State) : Host.Outcome State Fault Refusal :=
  complete (do
    checkType t allTypes
    checkRange t off
    let x ← source s d [t]
    pure (.store off.toNat (encodeCanonical s.params x))) s

/-- LDM (40_data_movement.md R168). -/
def execLdm (t : TCode) (d : Reg) (off : BitVec 10) (s : State) : Host.Outcome State Fault Refusal :=
  complete (do
    checkType t fieldTypes
    checkRange t off
    pure (putOrDecfail d (decodeRaw s t off.toNat))) s

/-- STM (40_data_movement.md R169). -/
def execStm (t : TCode) (d : Reg) (off : BitVec 10) (s : State) : Host.Outcome State Fault Refusal :=
  complete (do
    checkType t fieldTypes
    checkRange t off
    let x ← source s d [t]
    pure (.store off.toNat (encodeRaw x))) s

/-- MOV (40_data_movement.md R170). -/
def execMov (t : TCode) (d a : Reg) (s : State) : Host.Outcome State Fault Refusal :=
  complete (do
    checkType t allTypes
    let x ← source s a [t]
    pure (.put d x)) s

/-- CONST (40_data_movement.md R171). -/
def execConst (t : TCode) (d : Reg) (k : BitVec 10) (s : State) : Host.Outcome State Fault Refusal :=
  complete (do
    checkType t allTypes
    checkImm (constImmLegal t k)
    let x ← constValue s.params t k
    pure (.put d x)) s

/-- SEL (40_data_movement.md R172): choice 1 selects B, 0 selects A. -/
def execSel (t : TCode) (d a b c : Reg) (s : State) : Host.Outcome State Fault Refusal :=
  complete (do
    checkType t allTypes
    let x ← source s a [t]
    let y ← source s b [t]
    let z ← source s c [.bool]
    let choice ← boolOperand z
    pure (.put d (ctSelect x y choice))) s

end Sys2Proof.Machine
end

