-- ==== Sys2Proof/Machine/FieldCommands.lean ====
section
/-!
DEFINITION. The field commands: ADD, SUB, DBL, NEG, MUL, SQR, INV, MRED, EQ, ISZERO, ISONE, MULNR,
CONJ, FROB (43_field_instructions.md R281 to R294).
-/

namespace Sys2Proof.Machine

/-- ADD (43_field_instructions.md R281). -/
def execAdd (t : TCode) (d a b : Reg) (s : State) : Host.Outcome State Fault Refusal :=
  complete (do
    checkType t fieldTypes
    let x ← source s a [t]
    let y ← source s b [t]
    let r ← fieldBinary s.params (fun _ F => F.add) x y
    pure (.put d r)) s

/-- SUB, A - B (43_field_instructions.md R282). -/
def execSub (t : TCode) (d a b : Reg) (s : State) : Host.Outcome State Fault Refusal :=
  complete (do
    checkType t fieldTypes
    let x ← source s a [t]
    let y ← source s b [t]
    let r ← fieldBinary s.params (fun _ F => F.sub) x y
    pure (.put d r)) s

/-- DBL (43_field_instructions.md R283). -/
def execDbl (t : TCode) (d a : Reg) (s : State) : Host.Outcome State Fault Refusal :=
  complete (do
    checkType t fieldTypes
    let x ← source s a [t]
    let r ← fieldUnary s.params (fun _ F => F.dbl) x
    pure (.put d r)) s

/-- NEG (43_field_instructions.md R284). -/
def execNeg (t : TCode) (d a : Reg) (s : State) : Host.Outcome State Fault Refusal :=
  complete (do
    checkType t fieldTypes
    let x ← source s a [t]
    let r ← fieldUnary s.params (fun _ F => F.neg) x
    pure (.put d r)) s

/-- MUL (43_field_instructions.md R285). -/
def execMul (t : TCode) (d a b : Reg) (s : State) : Host.Outcome State Fault Refusal :=
  complete (do
    checkType t fieldTypes
    let x ← source s a [t]
    let y ← source s b [t]
    let r ← fieldBinary s.params (fun _ F => F.mul) x y
    pure (.put d r)) s

/-- SQR (43_field_instructions.md R286). -/
def execSqr (t : TCode) (d a : Reg) (s : State) : Host.Outcome State Fault Refusal :=
  complete (do
    checkType t fieldTypes
    let x ← source s a [t]
    let r ← fieldUnary s.params (fun _ F => F.sqr) x
    pure (.put d r)) s

/-- INV (43_field_instructions.md R287): None for zero. -/
def execInv (t : TCode) (d a : Reg) (s : State) : Host.Outcome State Fault Refusal :=
  complete (do
    checkType t fieldTypes
    let x ← source s a [t]
    let r ← fieldInverse s.params x
    pure (putOrNone d r)) s

/-- The Montgomery reduction of an FR or FQ value, raw m to m · R⁻¹ (43_field_instructions.md R288). -/
def reduceValue (P : Config.ParamStore) : Value → Except FaultCode Value
  | .fr m => .ok (.fr (montReduce P.fr m.toNat))
  | .fq m => .ok (.fq (montReduce P.fq m.toNat))
  | _ => .error .typeMismatch

/-- MRED (43_field_instructions.md R288). -/
def execMred (t : TCode) (d a : Reg) (s : State) : Host.Outcome State Fault Refusal :=
  complete (do
    checkType t [.fr, .fq]
    let x ← source s a [t]
    let r ← reduceValue s.params x
    pure (.put d r)) s

/-- EQ (43_field_instructions.md R289): the destination is BOOL. -/
def execEq (t : TCode) (d a b : Reg) (s : State) : Host.Outcome State Fault Refusal :=
  complete (do
    checkType t fieldTypes
    let x ← source s a [t]
    let y ← source s b [t]
    let r ← fieldCompare s.params (fun _ F => F.eq) x y
    pure (.put d (.bool r))) s

/-- ISZERO (43_field_instructions.md R290). -/
def execIszero (t : TCode) (d a : Reg) (s : State) : Host.Outcome State Fault Refusal :=
  complete (do
    checkType t fieldTypes
    let x ← source s a [t]
    let r ← fieldTest s.params (fun _ F => F.isZero) x
    pure (.put d (.bool r))) s

/-- ISONE (43_field_instructions.md R291). -/
def execIsone (t : TCode) (d a : Reg) (s : State) : Host.Outcome State Fault Refusal :=
  complete (do
    checkType t fieldTypes
    let x ← source s a [t]
    let r ← fieldTest s.params (fun _ F => F.isOne) x
    pure (.put d (.bool r))) s

/-- Multiplication by the tower non-residue: XI on FQ2, v on FQ6 (43_field_instructions.md R292). -/
def mulNonResidue (P : Config.ParamStore) : Value → Except FaultCode Value
  | .fq2 a => .ok (.fq2 (mulnr2 P a))
  | .fq6 a => .ok (.fq6 (mulnr6 P a))
  | _ => .error .typeMismatch

/-- MULNR (43_field_instructions.md R292). -/
def execMulnr (t : TCode) (d a : Reg) (s : State) : Host.Outcome State Fault Refusal :=
  complete (do
    checkType t [.fq2, .fq6]
    let x ← source s a [t]
    let r ← mulNonResidue s.params x
    pure (.put d r)) s

/-- Conjugation on FQ2 and FQ12 (43_field_instructions.md R293). -/
def conjugate (P : Config.ParamStore) : Value → Except FaultCode Value
  | .fq2 a => .ok (.fq2 (conj2 P a))
  | .fq12 a => .ok (.fq12 (conj12 P a))
  | _ => .error .typeMismatch

/-- CONJ (43_field_instructions.md R293). -/
def execConj (t : TCode) (d a : Reg) (s : State) : Host.Outcome State Fault Refusal :=
  complete (do
    checkType t [.fq2, .fq12]
    let x ← source s a [t]
    let r ← conjugate s.params x
    pure (.put d r)) s

/-- The Frobenius map of index `i` (43_field_instructions.md R294). -/
def frobenius (P : Config.ParamStore) (i : Nat) : Value → Except FaultCode Value
  | .fq2 a => .ok (.fq2 (frob2 P a i))
  | .fq6 a => .ok (.fq6 (frob6 P a i))
  | .fq12 a => .ok (.fq12 (frob12 P a i))
  | _ => .error .typeMismatch

/-- FROB (43_field_instructions.md R294): the immediate is checked before the operand. -/
def execFrob (t : TCode) (d a : Reg) (i : BitVec 10) (s : State) : Host.Outcome State Fault Refusal :=
  complete (do
    checkType t [.fq2, .fq6, .fq12]
    checkImm (frobImmLegal i)
    let x ← source s a [t]
    let r ← frobenius s.params i.toNat x
    pure (.put d r)) s

end Sys2Proof.Machine
end

