-- ==== Sys2Proof/Machine/Dispatch.lean ====
section
/-!
DEFINITION. The dispatch of a command to its meaning, one arm per constructor of `Instr`.
-/

namespace Sys2Proof.Machine

def exec (i : Instr) (s : State) : Host.Outcome State Fault Refusal :=
  match i with
  | .nop => Sys2Proof.Machine.execNop s
  | .ld t d off => Sys2Proof.Machine.execLd t d off s
  | .st t d off => Sys2Proof.Machine.execSt t d off s
  | .ldm t d off => Sys2Proof.Machine.execLdm t d off s
  | .stm t d off => Sys2Proof.Machine.execStm t d off s
  | .mov t d a => Sys2Proof.Machine.execMov t d a s
  | .const t d k => Sys2Proof.Machine.execConst t d k s
  | .sel t d a b c => Sys2Proof.Machine.execSel t d a b c s
  | .add t d a b => Sys2Proof.Machine.execAdd t d a b s
  | .sub t d a b => Sys2Proof.Machine.execSub t d a b s
  | .dbl t d a => Sys2Proof.Machine.execDbl t d a s
  | .neg t d a => Sys2Proof.Machine.execNeg t d a s
  | .mul t d a b => Sys2Proof.Machine.execMul t d a b s
  | .sqr t d a => Sys2Proof.Machine.execSqr t d a s
  | .inv t d a => Sys2Proof.Machine.execInv t d a s
  | .mred t d a => Sys2Proof.Machine.execMred t d a s
  | .eq t d a b => Sys2Proof.Machine.execEq t d a b s
  | .iszero t d a => Sys2Proof.Machine.execIszero t d a s
  | .isone t d a => Sys2Proof.Machine.execIsone t d a s
  | .mulnr t d a => Sys2Proof.Machine.execMulnr t d a s
  | .conj t d a => Sys2Proof.Machine.execConj t d a s
  | .frob t d a imm => Sys2Proof.Machine.execFrob t d a imm s
  | .padd t d a b => Sys2Proof.Machine.execPadd t d a b s
  | .pdbl t d a => Sys2Proof.Machine.execPdbl t d a s
  | .pneg t d a => Sys2Proof.Machine.execPneg t d a s
  | .psmul t d a b => Sys2Proof.Machine.execPsmul t d a b s
  | .toproj t d a => Sys2Proof.Machine.execToproj t d a s
  | .toaff t d a => Sys2Proof.Machine.execToaff t d a s
  | .peq t d a b => Sys2Proof.Machine.execPeq t d a b s
  | .isid t d a => Sys2Proof.Machine.execIsid t d a s
  | .oncurve t d a => Sys2Proof.Machine.execOncurve t d a s

end Sys2Proof.Machine
end

