-- ==== Sys2Proof/Machine/HostPort.lean ====
section
/-!
DEFINITION. The host port: which accesses are legal (20_memory.md R82, R88), the register block
(10_state.md R40 to R49), the interlocked IOBUF (20_memory.md R87), and the answers (R81).
-/

namespace Sys2Proof.Machine

/-- The register block, 0x0000 to 0x003F (20_memory.md R82). -/
def inRegisterBlock (addr : BitVec 16) : Bool := decide (addr.toNat < 0x0040)

/-- IOBUF, 0x2000 to 0x3FFF (20_memory.md R82). -/
def inIobuf (addr : BitVec 16) : Bool := decide (0x2000 ≤ addr.toNat) && decide (addr.toNat < 0x4000)

/-- An access is legal exactly when it is 8 bytes, aligned, and in one of the two ranges
(20_memory.md R82). -/
def legalAccess (a : Access) : Bool :=
  decide (a.size = .b8) && decide (a.addr.toNat % 8 = 0) && (inRegisterBlock a.addr || inIobuf a.addr)

/-- What a read of a register returns (10_state.md R40 to R49): CMD and the reserved offset read 0. -/
def readRegister (s : State) (addr : BitVec 16) : Word :=
  match addr.toNat with
  | 0x00 => idWord
  | 0x08 => s.cfgWord
  | 0x10 => s.ctrlWord
  | 0x18 => s.statusWord
  | 0x28 => s.cmdCount
  | 0x30 => s.faultInfo
  | _ => 0

/-- A write to CTRL (10_state.md R43, 60_exceptions.md R442): bits [1:0] are stored, then SRST wins
over CLRF. -/
def writeCtrl (s : State) (wdata : Word) : State :=
  let s := { s with doneIe := wdata.getLsbD 0, faultIe := wdata.getLsbD 1 }
  if wdata.getLsbD 9 then softReset s
  else if wdata.getLsbD 8 then clearFault s
  else s

/-- A write to CMD (10_state.md R37, R46, 60_exceptions.md R440): the low 32 bits join the FIFO, or
are dropped with CMDOVF. -/
def writeCmd (s : State) (wdata : Word) : State :=
  if s.qcount < cmdqDepth ∧ s.status.fault = false then
    { s with fifo := s.fifo ++ [wdata.setWidth 32] }
  else s.setCmdovf

/-- A write to a register (10_state.md R40): read-only registers and the reserved offset ignore it. -/
def writeRegister (s : State) (addr : BitVec 16) (wdata : Word) : State :=
  match addr.toNat with
  | 0x10 => writeCtrl s wdata
  | 0x18 => { s with status := clearStatus wdata s.status }
  | 0x20 => writeCmd s wdata
  | _ => s

/-- The byte offset in IOBUF of a host address (20_memory.md R84, R85). -/
def iobufOffset (addr : BitVec 16) : Nat := addr.toNat - 0x2000

/-- The answer to an access, as the host sees it. -/
def State.answer (s : State) (resp : Resp) (rdata : Word) : State :=
  { s with response := some ⟨resp, rdata⟩ }

/-- A legal access to the register block (10_state.md R40). -/
def registerAccess (a : Access) (s : State) : State :=
  match a.kind with
  | .read => s.answer .okay (readRegister s a.addr)
  | .write => (writeRegister s a.addr a.wdata).answer .okay 0

/-- A legal access to IOBUF (20_memory.md R87): refused with HOSTCONF while BUSY. -/
def iobufAccess (a : Access) (s : State) : State :=
  if s.busy then s.setHostconf.answer .error 0
  else match a.kind with
    | .read => s.answer .okay (BitVec.ofNat 64 (s.memRead (iobufOffset a.addr) 8))
    | .write => (s.memWrite (iobufOffset a.addr) 8 a.wdata.toNat).answer .okay 0

/-- A HOST step (70_reset_and_hazards.md R480): an illegal access only sets BUSERR (20_memory.md
R83). -/
def hostAccess (a : Access) (s : State) : State :=
  if legalAccess a then
    if inRegisterBlock a.addr then registerAccess a s else iobufAccess a s
  else s.setBuserr.answer .error 0

end Sys2Proof.Machine
end

