-- ==== Sys2Proof/Machine/Engine.lean ====
section
/-!
DEFINITION. The steps of the two agents and of reset (70_reset_and_hazards.md R480, R481).
-/

namespace Sys2Proof.Machine

/-- The ENGINE's retire step for the in-flight word (70_reset_and_hazards.md R481): the decoder's
refusal is the fault of 60_exceptions.md R425 steps 1 and 2; a command is executed. -/
def retireStep (w : Command) (s : State) : Host.Outcome State Fault Refusal :=
  match decode w with
  | .fault c => .next (takeFault c s)
  | .instr i => exec i s

/-- The ENGINE's start step (70_reset_and_hazards.md R480): with an empty slot and no fault, the head
of the FIFO moves into the slot. Where it is not enabled the ENGINE holds its state (60_exceptions.md
R421, R454). -/
def startStep (s : State) : State :=
  if s.status.fault then s
  else match s.fifo with
    | [] => s
    | w :: rest => { s with inflight := some w, fifo := rest }

/-- The ENGINE's turn: retire when the slot is full, else start (70_reset_and_hazards.md R480). -/
def engineStep (s : State) : Host.Outcome State Fault Refusal :=
  match s.inflight with
  | some w => retireStep w s
  | none => .next (startStep s)

/-- The schedule without its first turn (log 4). -/
def State.nextTurn (s : State) : State := { s with inputs := s.inputs.tail }

/-- The step of the turn at the head of the schedule; with no turn left it is the ENGINE's, so that
every accepted command is executed (70_reset_and_hazards.md R487; log 4). -/
def turn (s : State) : Host.Outcome State Fault Refusal :=
  match s.inputs with
  | [] => engineStep s
  | .engine :: _ => engineStep s.nextTurn
  | .host a :: _ => .next (hostAccess a s.nextTurn)
  | .hardReset :: _ => .next (hardReset s.nextTurn)

/-- The command word of an instruction of `nbits` bits whose bits are `w`, into the in-flight slot,
with the ENGINE's turn next. -/
def placeCommand (s : State) (nbits w : Nat) : State :=
  { s with
    inflight := some (BitVec.ofNat 32 (w % 2 ^ nbits))
    inputs := .engine :: s.inputs }

end Sys2Proof.Machine
end

