-- ==== Sys2Proof/Machine/Step.lean ====
section
/-!
DEFINITION. One step of the block (70_reset_and_hazards.md R480), and where the next command stands.
-/

namespace Sys2Proof.Machine

/-- One step: one turn of HOST, ENGINE or rst (70_reset_and_hazards.md R480). -/
def step (s : State) : Host.Outcome State Fault Refusal := turn s

/-- The state with a command where the very next step runs it: the in-flight slot (log 9). -/
def State.withFetchWord (s : State) (nbits w : Nat) : State := placeCommand s nbits w

end Sys2Proof.Machine
end

