-- ==== Sys2Proof/WellFormed.lean ====
section
/-!
DEFINITION. The well-formed commands: those the word-level checks of 60_exceptions.md R425 (steps 3
to 5) let pass. A command that is not well formed is still executed: its execution takes the fault
the failed check names.
-/

namespace Sys2Proof

open Machine

/-- The types each opcode admits (30_encoding.md R127). NOP has no T field left to check. -/
def Instr.admittedTypes : Instr → List TCode
  | .nop => []
  | .ld .. | .st .. | .mov .. | .const .. | .sel .. => allTypes
  | .ldm .. | .stm .. => fieldTypes
  | .add .. | .sub .. | .dbl .. | .neg .. | .mul .. | .sqr .. | .inv .. => fieldTypes
  | .eq .. | .iszero .. | .isone .. => fieldTypes
  | .mred .. => [.fr, .fq]
  | .mulnr .. => [.fq2, .fq6]
  | .conj .. => [.fq2, .fq12]
  | .frob .. => [.fq2, .fq6, .fq12]
  | .padd .. | .pdbl .. | .psmul .. | .toproj .. => projTypes
  | .toaff .. => affTypes
  | .pneg .. | .peq .. | .isid .. | .oncurve .. => pointTypes

/-- The T field of a command (30_encoding.md R121); NOP's is zero. -/
def Instr.typeField : Instr → TCode
  | .nop => .empty
  | .ld t .. | .st t .. | .ldm t .. | .stm t .. | .mov t .. | .const t .. | .sel t .. => t
  | .add t .. | .sub t .. | .dbl t .. | .neg t .. | .mul t .. | .sqr t .. | .inv t .. => t
  | .mred t .. | .eq t .. | .iszero t .. | .isone t .. | .mulnr t .. | .conj t .. => t
  | .frob t .. | .padd t .. | .pdbl t .. | .pneg t .. | .psmul t .. | .toproj t .. => t
  | .toaff t .. | .peq t .. | .isid t .. | .oncurve t .. => t

/-- Step 3 of 60_exceptions.md R425: T is admitted by the opcode; NOP is not checked. -/
def Instr.typeOk (i : Instr) : Bool :=
  match i with
  | .nop => true
  | i => decide (i.typeField ∈ i.admittedTypes)

/-- Step 4 of 60_exceptions.md R425: the immediate of CONST and FROB is legal. -/
def Instr.immOk : Instr → Bool
  | .const t _ k => constImmLegal t k
  | .frob _ _ _ i => frobImmLegal i
  | _ => true

/-- Step 5 of 60_exceptions.md R425: the IOBUF range of a format M command. -/
def Instr.rangeOk : Instr → Bool
  | .ld t _ off | .st t _ off | .ldm t _ off | .stm t _ off => rangeLegal t off
  | _ => true

/-- The command passes every word-level check of 60_exceptions.md R425. -/
def Instr.wf (i : Instr) : Bool :=
  i.typeOk && i.immOk && i.rangeOk

end Sys2Proof
end

