-- ==== Sys2Proof/Safety.lean ====
section
/-!
DEFINITION. The terms the claims use: what a good state is (10_state.md R35 and the relations between
the fields), what a command that retires and one that faults leave (70_reset_and_hazards.md R481,
60_exceptions.md R421, R426), which fault a command meets first (60_exceptions.md R425), and the
mathematical readings of values.
-/

namespace Sys2Proof.Machine

open Config

/-! ### Values -/

/-- A coordinate of G2, of FQ6 or of FQ12 is canonical: every base coefficient is below P_FQ. -/
def canonical6 (P : ParamStore) (a : Fq6) : Bool :=
  canonical2 P a.c0 && canonical2 P a.c1 && canonical2 P a.c2

/-- An FQ12 element is canonical. -/
def canonical12 (P : ParamStore) (a : Fq12) : Bool :=
  canonical6 P a.c0 && canonical6 P a.c1

/-- A Weierstrass affine point is canonical, and its coordinates are (0, 1) when its flag is set
(10_state.md R35). -/
def affineOk {K : Type} [DecidableEq K] (F : FieldOps K) (ok : K → Bool) (a : AffinePoint K) : Bool :=
  ok a.x && ok a.y && (!a.inf || (decide (a.x = F.zero) && decide (a.y = F.one)))

/-- A Weierstrass projective point is canonical. -/
def projOk {K : Type} (ok : K → Bool) (p : ProjPoint K) : Bool :=
  ok p.x && ok p.y && ok p.z

/-- An Edwards affine point is canonical. -/
def edAffineOk (P : ParamStore) (a : EdAffine) : Bool :=
  canonical P.fr a.x && canonical P.fr a.y

/-- An Edwards extended point is canonical. -/
def edExtendedOk (P : ParamStore) (p : EdExtended) : Bool :=
  canonical P.fr p.x && canonical P.fr p.y && canonical P.fr p.t && canonical P.fr p.z

/-- The first three register invariants of 10_state.md R35: canonical coefficients, BOOL 0 or 1 (by
its type), the affine identity normalized. -/
def valueOk (P : ParamStore) : Value → Bool
  | .empty => true
  | .bool _ => true
  | .fr m => canonical P.fr m
  | .fq m => canonical P.fq m
  | .fq2 a => canonical2 P a
  | .fq6 a => canonical6 P a
  | .fq12 a => canonical12 P a
  | .g1a p => affineOk (fqOps P) (canonical P.fq) p
  | .g1p p => projOk (canonical P.fq) p
  | .g2a p => affineOk (fq2Ops P) (canonical2 P) p
  | .g2p p => projOk (canonical2 P) p
  | .eda p => edAffineOk P p
  | .ede p => edExtendedOk P p

/-- The canonical integers of an FQ2 element, c0 first. -/
def coeffs2 (P : ParamStore) (a : Fq2) : List Nat := [valOf P.fq a.c0, valOf P.fq a.c1]

/-- The canonical integers of an FQ6 element, in the order of 40_data_movement.md R161. -/
def coeffs6 (P : ParamStore) (a : Fq6) : List Nat := coeffs2 P a.c0 ++ coeffs2 P a.c1 ++ coeffs2 P a.c2

/-- The canonical integers of a value's coefficients, in the order of 40_data_movement.md R161; a
BOOL and a flag are no coefficients. -/
def coeffs (P : ParamStore) : Value → List Nat
  | .empty => []
  | .bool _ => []
  | .fr m => [valOf P.fr m]
  | .fq m => [valOf P.fq m]
  | .fq2 a => coeffs2 P a
  | .fq6 a => coeffs6 P a
  | .fq12 a => coeffs6 P a.c0 ++ coeffs6 P a.c1
  | .g1a p => [valOf P.fq p.x, valOf P.fq p.y]
  | .g1p p => [valOf P.fq p.x, valOf P.fq p.y, valOf P.fq p.z]
  | .g2a p => coeffs2 P p.x ++ coeffs2 P p.y
  | .g2p p => coeffs2 P p.x ++ coeffs2 P p.y ++ coeffs2 P p.z
  | .eda p => [valOf P.fr p.x, valOf P.fr p.y]
  | .ede p => [valOf P.fr p.x, valOf P.fr p.y, valOf P.fr p.t, valOf P.fr p.z]

/-- The flag word or BOOL word of a value, where its layout has one (40_data_movement.md R161). -/
def flagOf : Value → Option Bool
  | .bool b => some b
  | .g1a p => some p.inf
  | .g2a p => some p.inf
  | _ => none

/-- The types whose coefficients are FR elements. -/
def overFr (t : TCode) : Bool := t == .fr || t == .eda || t == .ede

/-- The modulus of the coefficients of a type. -/
def modulusOf (P : ParamStore) (t : TCode) : Nat :=
  if overFr t then P.fr.p.toNat else P.fq.p.toNat

/-- N_F of the coefficients of a type (40_data_movement.md R161). -/
def coeffWords (t : TCode) : Nat := if overFr t then 4 else 6

/-- The number of base-field coefficients of a type (10_state.md R33). -/
def coeffCount : TCode → Nat
  | .fr => 1
  | .fq => 1
  | .fq2 => 2
  | .fq6 => 6
  | .fq12 => 12
  | .g1a => 2
  | .g1p => 3
  | .g2a => 4
  | .g2p => 6
  | .eda => 2
  | .ede => 4
  | _ => 0

/-- The integers IOBUF holds at the places of the coefficients of a value of type `t` at word offset
`off` (40_data_movement.md R161). -/
def loadedCoeffs (s : State) (t : TCode) (off : Nat) : List Nat :=
  (List.range (coeffCount t)).map fun k => s.memRead (8 * (off + coeffWords t * k)) (8 * coeffWords t)

/-- The flag word of a G1A or G2A value, or the BOOL word, at word offset `off` (40_data_movement.md
R161): the word after the coefficients. -/
def loadedFlag (s : State) (t : TCode) (off : Nat) : Nat :=
  s.iobufWord (off + coeffWords t * coeffCount t)

/-- The raw integers of an FQ2 element, c0 first. -/
def rawCoeffs2 (a : Fq2) : List Nat := [a.c0.toNat, a.c1.toNat]

/-- The raw integers of an FQ6 element. -/
def rawCoeffs6 (a : Fq6) : List Nat := rawCoeffs2 a.c0 ++ rawCoeffs2 a.c1 ++ rawCoeffs2 a.c2

/-- The raw (Montgomery-form) integers of a field value's coefficients (40_data_movement.md R164). -/
def rawCoeffs : Value → List Nat
  | .fr m => [m.toNat]
  | .fq m => [m.toNat]
  | .fq2 a => rawCoeffs2 a
  | .fq6 a => rawCoeffs6 a
  | .fq12 a => rawCoeffs6 a.c0 ++ rawCoeffs6 a.c1
  | _ => []

/-! ### Good states -/

/-- The relations every step keeps: a consistent parameter storage, canonical registers
(10_state.md R35), IOBUF in its canonical form, at most 16 queued commands (R37), an empty slot and
FIFO while FAULTED (60_exceptions.md R426), FAULT_CODE 0 without a fault and 1 to 7 with one (R422). -/
structure StateInv (s : State) : Prop where
  params : paramsOk s.params = true
  values : ∀ r : Reg, valueOk s.params (s.reg r) = true
  memory : Memory.wf s.iobuf = true
  queue : s.qcount ≤ 16
  faultedEmpty : s.status.fault = true → s.inflight = none ∧ s.fifo = []
  noFaultCode : s.status.fault = false → s.status.faultCode = 0
  aFaultCode : s.status.fault = true → 1 ≤ s.status.faultCode.toNat ∧ s.status.faultCode.toNat ≤ 7

/-! ### What a command leaves -/

/-- `s` retired one command into `t` (70_reset_and_hazards.md R481): CMD_COUNT counts, the slot
empties, DONE is set when the FIFO is empty, and everything but the value registers, IOBUF, NONE and
DECFAIL is as before. -/
structure Retires (s t : State) : Prop where
  count : t.cmdCount = s.cmdCount + 1
  slot : t.inflight = none
  queue : t.fifo = s.fifo
  done : t.status.done = (s.status.done || s.fifo.isEmpty)
  fault : t.status.fault = s.status.fault
  faultCode : t.status.faultCode = s.status.faultCode
  cmdovf : t.status.cmdovf = s.status.cmdovf
  hostconf : t.status.hostconf = s.status.hostconf
  buserr : t.status.buserr = s.status.buserr
  faultInfo : t.faultInfo = s.faultInfo
  doneIe : t.doneIe = s.doneIe
  faultIe : t.faultIe = s.faultIe
  params : t.params = s.params
  response : t.response = s.response
  inputs : t.inputs = s.inputs
  hardResets : t.hardResets = s.hardResets

/-- Every byte of IOBUF reads as before. -/
def SameMemory (s t : State) : Prop := ∀ a, t.iobufByte a = s.iobufByte a

/-- The command retired and wrote `x` into V[d], and nothing else. -/
def Puts (d : Reg) (x : Value) (s t : State) : Prop :=
  Retires s t ∧ t.reg d = x ∧ (∀ r, r ≠ d → t.reg r = s.reg r) ∧ SameMemory s t ∧
    t.status.none = s.status.none ∧ t.status.decfail = s.status.decfail

/-- The command retired with the None result (60_exceptions.md R432). -/
def GivesNone (d : Reg) (s t : State) : Prop :=
  Retires s t ∧ t.reg d = .empty ∧ (∀ r, r ≠ d → t.reg r = s.reg r) ∧ SameMemory s t ∧
    t.status.none = true ∧ t.status.decfail = s.status.decfail

/-- The command retired with a failed decode (60_exceptions.md R431). -/
def GivesDecfail (d : Reg) (s t : State) : Prop :=
  Retires s t ∧ t.reg d = .empty ∧ (∀ r, r ≠ d → t.reg r = s.reg r) ∧ SameMemory s t ∧
    t.status.none = s.status.none ∧ t.status.decfail = true

/-- The command retired, wrote no register, and no byte of IOBUF outside words `off .. off + words - 1`
changed (40_data_movement.md R167). -/
def Stores (off words : Nat) (s t : State) : Prop :=
  Retires s t ∧ (∀ r, t.reg r = s.reg r) ∧
    (∀ a, a < 8 * off ∨ 8 * (off + words) ≤ a → t.iobufByte a = s.iobufByte a) ∧
    t.status.none = s.status.none ∧ t.status.decfail = s.status.decfail

/-- The fault of code `c` was taken for the command word `w` (60_exceptions.md R421, R426, R427): `t`
is `s` with FAULT, FAULT_CODE and FAULT_INFO written and the slot and the FIFO emptied. -/
def FaultTaken (c : FaultCode) (w : Command) (s t : State) : Prop :=
  t = { s with
    status := { s.status with fault := true, faultCode := faultBits c }
    faultInfo := s.cmdCount.setWidth 32 ++ w
    inflight := none
    fifo := [] }

/-! ### Which fault a command meets first -/

/-- The IOBUF words of a value of each type, as the table of 40_data_movement.md R160 lists them. -/
def valueSizes : List (TCode × Nat) :=
  [(.bool, 1), (.fr, 4), (.fq, 6), (.fq2, 12), (.fq6, 36), (.fq12, 72), (.g1a, 13), (.g1p, 18),
    (.g2a, 25), (.g2p, 36), (.eda, 8), (.ede, 16)]

/-- The sources of a command in check order, each with the tags it may hold (30_encoding.md R128). -/
def sourcesOf : Instr → List (Reg × List TCode)
  | .nop => []
  | .ld .. => []
  | .ldm .. => []
  | .const .. => []
  | .st t d _ => [(d, [t])]
  | .stm t d _ => [(d, [t])]
  | .mov t _ a => [(a, [t])]
  | .sel t _ a b c => [(a, [t]), (b, [t]), (c, [.bool])]
  | .add t _ a b => [(a, [t]), (b, [t])]
  | .sub t _ a b => [(a, [t]), (b, [t])]
  | .mul t _ a b => [(a, [t]), (b, [t])]
  | .eq t _ a b => [(a, [t]), (b, [t])]
  | .dbl t _ a => [(a, [t])]
  | .neg t _ a => [(a, [t])]
  | .sqr t _ a => [(a, [t])]
  | .inv t _ a => [(a, [t])]
  | .mred t _ a => [(a, [t])]
  | .iszero t _ a => [(a, [t])]
  | .isone t _ a => [(a, [t])]
  | .mulnr t _ a => [(a, [t])]
  | .conj t _ a => [(a, [t])]
  | .frob t _ a _ => [(a, [t])]
  | .padd t _ a b => [(a, [t, affOf t]), (b, [t, affOf t])]
  | .pdbl t _ a => [(a, [t, affOf t])]
  | .pneg t _ a => [(a, [t])]
  | .psmul t _ a b => [(a, [t, affOf t]), (b, [.fr])]
  | .toproj t _ a => [(a, [affOf t])]
  | .toaff t _ a => [(a, [projOf t])]
  | .peq t _ a b => [(a, [t]), (b, [t])]
  | .isid t _ a => [(a, [t])]
  | .oncurve t _ a => [(a, [t])]

/-- Step 6 of 60_exceptions.md R425: the fault of the first source that fails its check. -/
def firstSourceFault (s : State) : List (Reg × List TCode) → Option FaultCode
  | [] => none
  | (r, required) :: rest =>
    if tagOf (s.reg r) = .empty then some .emptyOperand
    else if tagOf (s.reg r) ∈ required then firstSourceFault s rest
    else some .typeMismatch

/-- Steps 3 to 6 of 60_exceptions.md R425 on a decoded command. -/
def faultOf (s : State) (i : Instr) : Option FaultCode :=
  if i.typeOk = false then some .illegalType
  else if i.immOk = false then some .illegalImm
  else if i.rangeOk = false then some .iobufRange
  else firstSourceFault s (sourcesOf i)

/-- The bits of a word that must be zero, by OP (30_encoding.md R122, R126, R130); none for a reserved
OP (R129). -/
def reservedBits (op : Nat) : Option Command :=
  if op = 0x00 then some 0x03FFFFFF
  else if op ∈ [0x01, 0x02, 0x03, 0x04, 0x06] then some 0x0003FC00
  else if op = 0x07 then some 0x0000003F
  else if op ∈ [0x05, 0x12, 0x13, 0x15, 0x16, 0x17, 0x19, 0x1A, 0x1B, 0x1C] then some 0x00003FFF
  else if op ∈ [0x21, 0x22, 0x24, 0x25, 0x27, 0x28] then some 0x00003FFF
  else if op ∈ [0x10, 0x11, 0x14, 0x18, 0x20, 0x23, 0x26] then some 0x000003FF
  else if op = 0x1D then some 0x00003C00
  else none

/-- The check procedure of 60_exceptions.md R425 on a command word, steps 1 to 6: the fault of the
first failing check. -/
def wordFault (s : State) (w : Command) : Option FaultCode :=
  match reservedBits (opField w).toNat with
  | none => some .illegalOpcode
  | some m =>
    if w &&& m ≠ 0 then some .reservedField
    else match decode w with
      | .instr i => faultOf s i
      | .fault c => some c

/-- The register a command writes (30_encoding.md R128). -/
def destOf : Instr → Option Reg
  | .nop | .st .. | .stm .. => none
  | .ld _ d _ | .ldm _ d _ | .const _ d _ => some d
  | .mov _ d _ | .sel _ d _ _ _ | .add _ d _ _ | .sub _ d _ _ | .dbl _ d _ | .neg _ d _ => some d
  | .mul _ d _ _ | .sqr _ d _ | .inv _ d _ | .mred _ d _ | .eq _ d _ _ | .iszero _ d _ => some d
  | .isone _ d _ | .mulnr _ d _ | .conj _ d _ | .frob _ d _ _ | .padd _ d _ _ | .pdbl _ d _ => some d
  | .pneg _ d _ | .psmul _ d _ _ | .toproj _ d _ | .toaff _ d _ | .peq _ d _ _ => some d
  | .isid _ d _ | .oncurve _ d _ => some d

/-- The bytes of IOBUF a command reads (20_memory.md R90). -/
def readsByte (i : Instr) (a : Nat) : Prop :=
  match i with
  | .ld t _ off => 8 * off.toNat ≤ a ∧ a < 8 * (off.toNat + wordsOf t)
  | .ldm t _ off => 8 * off.toNat ≤ a ∧ a < 8 * (off.toNat + wordsOf t)
  | _ => False

/-! ### Fields -/

/-- The ring axioms of 41_field_kernel.md R216 on the canonical elements of a field's functions, with
the readings of the derived functions and of the tests. -/
structure RingLaws {K : Type} (F : FieldOps K) (ok : K → Prop) : Prop where
  zero_ok : ok F.zero
  one_ok : ok F.one
  add_ok : ∀ a b, ok a → ok b → ok (F.add a b)
  neg_ok : ∀ a, ok a → ok (F.neg a)
  mul_ok : ∀ a b, ok a → ok b → ok (F.mul a b)
  add_assoc : ∀ a b c, ok a → ok b → ok c → F.add (F.add a b) c = F.add a (F.add b c)
  add_comm : ∀ a b, ok a → ok b → F.add a b = F.add b a
  add_zero : ∀ a, ok a → F.add a F.zero = a
  add_neg : ∀ a, ok a → F.add a (F.neg a) = F.zero
  mul_assoc : ∀ a b c, ok a → ok b → ok c → F.mul (F.mul a b) c = F.mul a (F.mul b c)
  mul_comm : ∀ a b, ok a → ok b → F.mul a b = F.mul b a
  mul_one : ∀ a, ok a → F.mul a F.one = a
  mul_add : ∀ a b c, ok a → ok b → ok c → F.mul a (F.add b c) = F.add (F.mul a b) (F.mul a c)
  sub_eq : ∀ a b, ok a → ok b → F.sub a b = F.add a (F.neg b)
  dbl_eq : ∀ a, ok a → F.dbl a = F.add a a
  sqr_eq : ∀ a, ok a → F.sqr a = F.mul a a
  eq_iff : ∀ a b, F.eq a b = true ↔ a = b
  isZero_iff : ∀ a, F.isZero a = true ↔ a = F.zero
  isOne_iff : ∀ a, F.isOne a = true ↔ a = F.one

/-- `x^e` by repeated multiplication (00_scope.md R12). -/
def powOf {K : Type} (F : FieldOps K) (a : K) : Nat → K
  | 0 => F.one
  | e + 1 => F.mul (powOf F a e) a

/-- An element is no square of a canonical element. -/
def NonSquare {K : Type} (F : FieldOps K) (ok : K → Prop) (x : K) : Prop :=
  ∀ a, ok a → F.mul a a ≠ x

/-- An element is no cube of a canonical element. -/
def NonCube {K : Type} (F : FieldOps K) (ok : K → Prop) (x : K) : Prop :=
  ∀ a, ok a → F.mul (F.mul a a) a ≠ x

/-- The non-residue constraints of 00_scope.md R6: BETA is no square in FQ; XI is neither a square nor
a cube in FQ2. -/
structure NonResidues (P : ParamStore) : Prop where
  beta : NonSquare (fqOps P) (fun a => canonical P.fq a = true) P.beta
  xiSquare : NonSquare (fq2Ops P) (fun a => canonical2 P a = true) P.xi
  xiCube : NonCube (fq2Ops P) (fun a => canonical2 P a = true) P.xi

/-- The Frobenius tables hold the powers of XI their formulas give (42_extension_tower.md R252). -/
structure FrobeniusTables (P : ParamStore) : Prop where
  c61 : ∀ j : Fin 6, P.frob6C1[j] = powOf (fq2Ops P) P.xi ((P.fq.p.toNat ^ j.val - 1) / 3)
  c62 : ∀ j : Fin 6, P.frob6C2[j] = powOf (fq2Ops P) P.xi ((2 * P.fq.p.toNat ^ j.val - 2) / 3)
  c121 : ∀ j : Fin 12, P.frob12C1[j] = powOf (fq2Ops P) P.xi ((P.fq.p.toNat ^ j.val - 1) / 6)

/-- The completeness conditions on the Edwards coefficients (44_curve_group_law.md R335). -/
structure EdwardsComplete (P : ParamStore) : Prop where
  aSquare : ∃ c, canonical P.fr c = true ∧ (frOps P).mul c c = P.edA
  dNonSquare : NonSquare (frOps P) (fun a => canonical P.fr a = true) P.edD

/-- A conforming parameter set: the constraints of 00_scope.md R6 and R8 and the completeness
conditions of 44_curve_group_law.md R335. -/
structure Conforming (P : ParamStore) : Prop where
  ok : paramsOk P = true
  primeFr : P.fr.p.toNat.Prime
  primeFq : P.fq.p.toNat.Prime
  residues : NonResidues P
  tables : FrobeniusTables P
  edwards : EdwardsComplete P
  g1 : NonCube (fqOps P) (fun a => canonical P.fq a = true) (fneg P.fq P.bG1)
  g2 : NonCube (fq2Ops P) (fun a => canonical2 P a = true) (neg2 P P.bG2)

/-! ### Points -/

/-- The fourth register invariant of 10_state.md R35: every point in a register is on its curve. -/
def PointsOk (s : State) : Prop :=
  ∀ r : Reg, pointOnCurve s.params (s.reg r) ≠ .ok false

/-- A projective point is canonical and on its curve (44_curve_group_law.md R334). -/
def ValidProj {K : Type} (F : FieldOps K) (ok : K → Bool) (b : K) (p : ProjPoint K) : Prop :=
  projOk ok p = true ∧ onCurveWP F b p = true

/-- An extended point is canonical and on its curve (44_curve_group_law.md R334). -/
def ValidExt (P : ParamStore) (p : EdExtended) : Prop :=
  edExtendedOk P p = true ∧ onCurveEE P p = true

/-- A register value gives the G1 point `p` to PADD, PDBL and PSMUL (45_curve_instructions.md R370,
44_curve_group_law.md R325). -/
def HoldsG1 (P : ParamStore) (x : Value) (p : ProjPoint Fq) : Prop :=
  x = .g1p p ∨ ∃ u, x = .g1a u ∧ p = if u.inf then ⟨0, P.fq.one, 0⟩ else ⟨u.x, u.y, P.fq.one⟩

/-- A register value gives the G2 point `p` to PADD, PDBL and PSMUL. -/
def HoldsG2 (P : ParamStore) (x : Value) (p : ProjPoint Fq2) : Prop :=
  x = .g2p p ∨ ∃ u, x = .g2a u ∧ p = if u.inf then ⟨zero2, one2 P, zero2⟩ else ⟨u.x, u.y, one2 P⟩

/-- A register value gives the ED point `p` to PADD, PDBL and PSMUL. -/
def HoldsEd (P : ParamStore) (x : Value) (p : EdExtended) : Prop :=
  x = .ede p ∨ ∃ u, x = .eda u ∧ p = ⟨u.x, u.y, montMul P.fr u.x u.y, P.fr.one⟩

/-- `r` is the chord sum of two finite points with different x (44_curve_group_law.md R320, R336), in
cross-multiplied form: with dx = x2 - x1 and dy = y2 - y1, X·dx² = Z·(dy² - (x1 + x2)·dx²) and
Y·dx³ = dy·(x1·Z·dx² - X·dx²) - y1·Z·dx³, and Z is not 0. -/
def ChordSum {K : Type} (F : FieldOps K) (u v : AffinePoint K) (r : ProjPoint K) : Prop :=
  let dx := F.sub v.x u.x
  let dy := F.sub v.y u.y
  let dx2 := F.mul dx dx
  r.z ≠ F.zero ∧
    F.mul r.x dx2 = F.mul r.z (F.sub (F.mul dy dy) (F.mul (F.add u.x v.x) dx2)) ∧
    F.mul r.y (F.mul dx dx2) =
      F.sub (F.mul dy (F.sub (F.mul (F.mul u.x r.z) dx2) (F.mul r.x dx2)))
        (F.mul (F.mul u.y r.z) (F.mul dx dx2))

/-- `r` is the tangent sum of a finite point with itself (44_curve_group_law.md R320, R336), in
cross-multiplied form: with m = 3·x² and e = 2·y, X·e² = Z·(m² - 2·x·e²) and
Y·e³ = m·(x·Z·e² - X·e²) - y·Z·e³, and Z is not 0. -/
def TangentSum {K : Type} (F : FieldOps K) (u : AffinePoint K) (r : ProjPoint K) : Prop :=
  let xx := F.mul u.x u.x
  let m := F.add (F.add xx xx) xx
  let e := F.add u.y u.y
  let e2 := F.mul e e
  r.z ≠ F.zero ∧
    F.mul r.x e2 = F.mul r.z (F.sub (F.mul m m) (F.mul (F.add u.x u.x) e2)) ∧
    F.mul r.y (F.mul e e2) =
      F.sub (F.mul m (F.sub (F.mul (F.mul u.x r.z) e2) (F.mul r.x e2)))
        (F.mul (F.mul u.y r.z) (F.mul e e2))

/-- The integer a NAF digit stands for (46_scalar_multiplier.md R400). -/
def nafInt : NafDigit → Int
  | .minusOne => -1
  | .zero => 0
  | .one => 1

/-- The integer a digit list stands for, least significant digit first: the sum of d_i·2^i
(46_scalar_multiplier.md R401). -/
def nafSum : List NafDigit → Int
  | [] => 0
  | d :: ds => nafInt d + 2 * nafSum ds

end Sys2Proof.Machine
end

