-- ==== Sys2Proof/Certificates/Slice0/Obligations.lean ====
section
/-!
DEFINITION. The statements for the provers. Each docstring names the rules of spec/ the statement
formalises; OBLIGATIONS.json lists them. Where a rule has premises on the parameter set, `paramsOk`
(00_scope.md R8) or `Conforming` (00_scope.md R6, R8, 44_curve_group_law.md R335) stands for them.
-/

open Sys2Proof Sys2Proof.Machine Sys2Proof.Config

/-! ### Encoding -/

/-- Decoding the word of any command gives the command back (30_encoding.md R121, R122, R126). -/
def Obligations.DecodeOfEncode : Prop :=
  ∀ i : Instr, decode (encode i) = .instr i

/-- A word that decodes to a command is that command's word: decoding drops no bit (30_encoding.md
R121, R122, R126). -/
def Obligations.EncodeOfDecode : Prop :=
  ∀ (w : Command) (i : Instr), decode w = .instr i → encode i = w

/-- The example words of 30_encoding.md R133 and of the instruction rules decode to the commands they
stand for. -/
def Obligations.ExampleWordsDecode : Prop :=
  decode 0x00000000 = .instr .nop ∧
  decode 0x04840004 = .instr (.ld .fr 1 4) ∧
  decode 0x18D40001 = .instr (.const .fq 5 1) ∧
  decode 0x1C8048C0 = .instr (.sel .fr 0 1 2 3) ∧
  decode 0x40804800 = .instr (.add .fr 0 1 2) ∧
  decode 0x58C8C000 = .instr (.inv .fq 2 3) ∧
  decode 0x75848001 = .instr (.frob .fq12 1 2 1) ∧
  decode 0x820C4800 = .instr (.padd .g1p 3 1 2) ∧
  decode 0x8E084000 = .instr (.psmul .g1p 2 1 0)

/-- A word whose OP is reserved is refused by the decoder as ILLEGAL_OPCODE whatever its other fields
hold; a word with a defined OP and a nonzero reserved field is refused as RESERVED_FIELD; every other
word decodes to a command. The ENGINE's turn on a refused word in the slot takes its fault (30_encoding.md R129,
R130). -/
def Obligations.ReservedWordsFault : Prop :=
  ∀ w : Command,
    let op := (opField w).toNat
    let reserved := (0x08 ≤ op ∧ op ≤ 0x0F) ∨ op = 0x1E ∨ op = 0x1F ∨ 0x29 ≤ op
    (decode w = .fault .illegalOpcode ↔ reserved) ∧
    (decode w = .fault .reservedField ↔ ∃ m, reservedBits op = some m ∧ w &&& m ≠ 0) ∧
    (reserved ↔ reservedBits op = none) ∧
    (¬reserved → (∀ m, reservedBits op = some m → w &&& m = 0) → ∃ i, decode w = .instr i) ∧
    ∀ (s : State) (rest : List Input), s.inputs = .engine :: rest → s.inflight = some w →
      (reserved → ∃ t, step s = .next t ∧ FaultTaken .illegalOpcode w { s with inputs := rest } t) ∧
      ∀ m, reservedBits op = some m → w &&& m ≠ 0 →
        ∃ t, step s = .next t ∧ FaultTaken .reservedField w { s with inputs := rest } t

/-! ### Steps and faults -/

/-- When the in-flight word decodes to a command and the turn is the ENGINE's, the step is the
execution of that command, on the schedule without that turn. With an empty slot the ENGINE's turn
moves the head of the FIFO into the slot when there is one and there is no fault, else the block holds
its state. Each is said of a scheduled ENGINE turn and of an exhausted schedule; that the latter is the
ENGINE's turn is the model's choice (log 4) (70_reset_and_hazards.md R480, R481, 60_exceptions.md R421,
R454). -/
def Obligations.StepRunsDecodedCommand : Prop :=
  ∀ s : State,
    (∀ w i, s.inflight = some w → decode w = .instr i →
      (s.inputs = [] → step s = exec i s) ∧
        ∀ rest, s.inputs = .engine :: rest → step s = exec i { s with inputs := rest }) ∧
    (s.inflight = none →
      (∀ w queue, s.status.fault = false → s.fifo = w :: queue →
        (s.inputs = [] → step s = .next { s with inflight := some w, fifo := queue }) ∧
          ∀ rest, s.inputs = .engine :: rest →
            step s = .next { s with inflight := some w, fifo := queue, inputs := rest }) ∧
      (s.status.fault = true ∨ s.fifo = [] →
        (s.inputs = [] → step s = .next s) ∧
          ∀ rest, s.inputs = .engine :: rest → step s = .next { s with inputs := rest }))

/-- No step of the machine stops with a fault or a refusal of the model's own: every step answers a
next state (70_reset_and_hazards.md R480, R481, 60_exceptions.md R421). -/
def Obligations.EveryStepAnswersNext : Prop :=
  ∀ s : State, ∃ t, step s = .next t

/-- Every accepted command retires or faults: left to itself the ENGINE is not BUSY after at most one
step for the in-flight command and two for each queued one, and when no fault was or is taken each of
them was counted. That an exhausted schedule gives every turn to the ENGINE is the model's choice
(log 4) (70_reset_and_hazards.md R487, R486, 10_state.md R47). -/
def Obligations.AcceptedCommandsFinish : Prop :=
  ∀ s : State, s.inputs = [] →
    ∃ t : State, Sys2Proof.core.run (2 * s.qcount + 1) s = .next t ∧ t.busy = false ∧
      (t.status.fault = false →
        t.fifo = [] ∧ t.inflight = none ∧
          t.cmdCount = s.cmdCount + BitVec.ofNat 64 (s.qcount + if s.inflight.isSome then 1 else 0))

/-- The check procedure on the in-flight word: at the ENGINE's turn the first failing check raises its
fault, and a word that passes every check retires as the command it decodes to; the checks depend only
on the word and the tags. Steps 4 and 5 are spelled out: a CONST of an immediate above 1, or of 1 for a
point type, and a FROB of an index above 11 fault ILLEGAL_IMM; an LD, ST, LDM or STM past word 1023
faults IOBUF_RANGE (60_exceptions.md R425). -/
def Obligations.FirstFailingCheckFaults : Prop :=
  ∀ (s : State) (w : Command) (rest : List Input), s.inputs = .engine :: rest → s.inflight = some w →
    (∀ c, wordFault s w = some c →
      ∃ t, step s = .next t ∧ FaultTaken c w { s with inputs := rest } t) ∧
    (wordFault s w = none →
      ∃ i t, decode w = .instr i ∧ step s = .next t ∧ Retires { s with inputs := rest } t) ∧
    (∀ s' : State, (∀ r, tagOf (s'.reg r) = tagOf (s.reg r)) → wordFault s' w = wordFault s w) ∧
    (∀ ty d k, decode w = .instr (.const ty d k) → ty ∈ allTypes →
      1 < k.toNat ∨ (k.toNat = 1 ∧ ty ∈ pointTypes) →
      ∃ t, step s = .next t ∧ FaultTaken .illegalImm w { s with inputs := rest } t) ∧
    (∀ ty d a i, decode w = .instr (.frob ty d a i) → ty ∈ [.fq2, .fq6, .fq12] → 11 < i.toNat →
      ∃ t, step s = .next t ∧ FaultTaken .illegalImm w { s with inputs := rest } t) ∧
    (∀ ty size d off, (ty, size) ∈ valueSizes → 1024 < off.toNat + size →
      (decode w = .instr (.ld ty d off) ∨ decode w = .instr (.st ty d off) ∨
        (ty ∈ fieldTypes ∧
          (decode w = .instr (.ldm ty d off) ∨ decode w = .instr (.stm ty d off)))) →
      ∃ t, step s = .next t ∧ FaultTaken .iobufRange w { s with inputs := rest } t)

/-- Every command that passes the checks of 60_exceptions.md R425 retires: exec answers a next state in
which the command is counted and only its destination register, the byte range of an ST or STM, NONE by
an INV, PNEG or TOAFF and DECFAIL by an LD or LDM, each only to 1, may have changed
(70_reset_and_hazards.md R481, 20_memory.md R90, 60_exceptions.md R431, R432). -/
def Obligations.FaultFreeCommandRetires : Prop :=
  ∀ (i : Instr) (s : State), faultOf s i = none →
    ∃ t, exec i s = .next t ∧ Retires s t ∧ (∀ r, destOf i ≠ some r → t.reg r = s.reg r) ∧
      ((∀ ty d off, i ≠ .st ty d off ∧ i ≠ .stm ty d off) → SameMemory s t) ∧
      (∀ ty d off, i = .st ty d off ∨ i = .stm ty d off →
        ∀ a, a < 8 * off.toNat ∨ 8 * (off.toNat + wordsOf ty) ≤ a → t.iobufByte a = s.iobufByte a) ∧
      (t.status.none = s.status.none ∨ (t.status.none = true ∧
        ∃ ty d a, i = .inv ty d a ∨ i = .pneg ty d a ∨ i = .toaff ty d a)) ∧
      (t.status.decfail = s.status.decfail ∨ (t.status.decfail = true ∧
        ∃ ty d off, i = .ld ty d off ∨ i = .ldm ty d off))

/-- The return from a fault: a host write of CLRF (without SRST) to CTRL while FAULT = 1 clears FAULT
and FAULT_CODE and keeps FAULT_INFO, CMD_COUNT, the registers, IOBUF and the sticky bits; the ENGINE is
IDLE, the faulting command is not executed again, and the next command the host writes is accepted.
While FAULT = 0, and when the written CLRF bit is 0, a write without SRST stores the enable bits and
changes nothing else (60_exceptions.md R429, and of the other writes R442, 10_state.md R43). -/
def Obligations.ClearFaultReturns : Prop :=
  ∀ (s : State) (data : Word) (rest : List Input), data.getLsbD 9 = false →
    s.inputs = .host ⟨.write, 0x0010, .b8, data⟩ :: rest →
    (data.getLsbD 8 = true → s.status.fault = true → ∃ t, step s = .next t ∧
      t = { s with
        status := { s.status with fault := false, faultCode := 0 }
        doneIe := data.getLsbD 0
        faultIe := data.getLsbD 1
        inputs := rest
        response := some ⟨.okay, 0⟩ } ∧
      (StateInv s → t.engineCondition = .idle ∧
        ∀ w, (hostAccess ⟨.write, 0x0020, .b8, w⟩ t).fifo = [w.setWidth 32])) ∧
    (data.getLsbD 8 = false ∨ s.status.fault = false → step s = .next { s with
        doneIe := data.getLsbD 0
        faultIe := data.getLsbD 1
        inputs := rest
        response := some ⟨.okay, 0⟩ })

/-! ### Data movement -/

/-- NOP: the only word with OP = 0 that is a command is 0x00000000, every other one faults
RESERVED_FIELD at the ENGINE's turn, and NOP counts and changes nothing else (40_data_movement.md
R165). -/
def Obligations.NopCountsAndNothingElse : Prop :=
  (∀ w : Command, opField w = 0 →
    (decode w = if w = 0 then .instr .nop else .fault .reservedField) ∧
    ∀ (s : State) (rest : List Input), w ≠ 0 → s.inputs = .engine :: rest → s.inflight = some w →
      ∃ t, step s = .next t ∧ FaultTaken .reservedField w { s with inputs := rest } t) ∧
  ∀ s : State, ∃ t, exec .nop s = .next t ∧ Retires s t ∧ (∀ r, t.reg r = s.reg r) ∧ SameMemory s t ∧
    t.status.none = s.status.none ∧ t.status.decfail = s.status.decfail

/-- LD of a BOOL, one word at any offset of IOBUF, loads the words 0 and 1 and is a DECFAIL for every
other word. LD of a field type: with every coefficient's words below the modulus the register holds the
value of those canonical integers, else the load is a DECFAIL (40_data_movement.md R160, R162, R166). -/
def Obligations.LoadIsCanonicalDecode : Prop :=
  ∀ (s : State) (d : Reg) (off : BitVec 10),
    (off.toNat + 1 ≤ 1024 →
      (∀ b : Bool, s.iobufWord off.toNat = b.toNat →
        ∃ t, exec (.ld .bool d off) s = .next t ∧ Puts d (.bool b) s t) ∧
      (2 ≤ s.iobufWord off.toNat → ∃ t, exec (.ld .bool d off) s = .next t ∧ GivesDecfail d s t)) ∧
    (∀ ty ∈ fieldTypes, paramsOk s.params = true → off.toNat + wordsOf ty ≤ 1024 →
      ((∀ v ∈ loadedCoeffs s ty off.toNat, v < modulusOf s.params ty) →
        ∃ t x, exec (.ld ty d off) s = .next t ∧ Puts d x s t ∧ tagOf x = ty ∧
          valueOk s.params x = true ∧ coeffs s.params x = loadedCoeffs s ty off.toNat) ∧
      ((∃ v ∈ loadedCoeffs s ty off.toNat, modulusOf s.params ty ≤ v) →
        ∃ t, exec (.ld ty d off) s = .next t ∧ GivesDecfail d s t))

/-- LD of a point type: the flag word of G1A and G2A decides first (1 is the identity whatever the
coordinate words hold, other than 0 and 1 is a DECFAIL); then a coordinate not below the modulus or a
point off its curve is a DECFAIL, and every other point is loaded with its coordinates as given
(40_data_movement.md R162, R166). -/
def Obligations.LoadPointChecksFlagRangeAndCurve : Prop :=
  ∀ (s : State) (ty : TCode) (d : Reg) (off : BitVec 10), paramsOk s.params = true →
    ty ∈ pointTypes → off.toNat + wordsOf ty ≤ 1024 →
    let flagged := ty = .g1a ∨ ty = .g2a
    let flag := loadedFlag s ty off.toNat
    (flagged → flag = 1 → ∃ t x, exec (.ld ty d off) s = .next t ∧ Puts d x s t ∧
      constValue s.params ty 0 = .ok x) ∧
    (flagged → 2 ≤ flag → ∃ t, exec (.ld ty d off) s = .next t ∧ GivesDecfail d s t) ∧
    ((flagged → flag = 0) →
      ((∃ v ∈ loadedCoeffs s ty off.toNat, modulusOf s.params ty ≤ v) →
        ∃ t, exec (.ld ty d off) s = .next t ∧ GivesDecfail d s t) ∧
      ((∀ v ∈ loadedCoeffs s ty off.toNat, v < modulusOf s.params ty) →
        ∃ x, tagOf x = ty ∧ valueOk s.params x = true ∧ flagOf x ≠ some true ∧
          coeffs s.params x = loadedCoeffs s ty off.toNat ∧
          (pointOnCurve s.params x = .ok true →
            ∃ t, exec (.ld ty d off) s = .next t ∧ Puts d x s t) ∧
          (pointOnCurve s.params x = .ok false →
            ∃ t, exec (.ld ty d off) s = .next t ∧ GivesDecfail d s t)))

/-- ST writes the canonical integers of the coefficients, and the flag or BOOL word, at their places of
the layout, and no other byte of IOBUF nor any register (40_data_movement.md R161, R163, R167). -/
def Obligations.StoreWritesCanonicalLayout : Prop :=
  ∀ (s : State) (ty : TCode) (d : Reg) (off : BitVec 10), paramsOk s.params = true →
    ty ∈ allTypes → off.toNat + wordsOf ty ≤ 1024 → tagOf (s.reg d) = ty →
    valueOk s.params (s.reg d) = true →
    ∃ t, exec (.st ty d off) s = .next t ∧ Stores off.toNat (wordsOf ty) s t ∧
      loadedCoeffs t ty off.toNat = coeffs s.params (s.reg d) ∧
      ∀ b, flagOf (s.reg d) = some b → loadedFlag t ty off.toNat = b.toNat

/-- Storing a value and loading it back gives the same register contents, for every type; a point must
be on its curve, as every point in a register is (40_data_movement.md R162, R163, R167). -/
def Obligations.StoreThenLoadReturnsValue : Prop :=
  ∀ (s : State) (ty : TCode) (d e : Reg) (off : BitVec 10), paramsOk s.params = true →
    ty ∈ allTypes → off.toNat + wordsOf ty ≤ 1024 → tagOf (s.reg d) = ty →
    valueOk s.params (s.reg d) = true → pointOnCurve s.params (s.reg d) ≠ .ok false →
    ∃ t u, exec (.st ty d off) s = .next t ∧ exec (.ld ty e off) t = .next u ∧
      Puts e (s.reg d) t u

/-- LDM loads the limbs unchanged, rejecting a coefficient not below the modulus; STM stores them
unchanged (40_data_movement.md R164, R168, R169). -/
def Obligations.RawLoadAndStoreKeepLimbs : Prop :=
  ∀ (s : State) (ty : TCode) (d : Reg) (off : BitVec 10), paramsOk s.params = true →
    ty ∈ fieldTypes → off.toNat + wordsOf ty ≤ 1024 →
    ((∀ v ∈ loadedCoeffs s ty off.toNat, v < modulusOf s.params ty) →
      ∃ t x, exec (.ldm ty d off) s = .next t ∧ Puts d x s t ∧ tagOf x = ty ∧
        rawCoeffs x = loadedCoeffs s ty off.toNat) ∧
    ((∃ v ∈ loadedCoeffs s ty off.toNat, modulusOf s.params ty ≤ v) →
      ∃ t, exec (.ldm ty d off) s = .next t ∧ GivesDecfail d s t) ∧
    (tagOf (s.reg d) = ty →
      ∃ t, exec (.stm ty d off) s = .next t ∧ Stores off.toNat (wordsOf ty) s t ∧
        loadedCoeffs t ty off.toNat = rawCoeffs (s.reg d))

/-- MOV copies the whole value; SEL copies B when the choice is 1 and A when it is 0
(40_data_movement.md R170, R172). -/
def Obligations.MovAndSelCopyAValue : Prop :=
  ∀ (s : State) (ty : TCode) (d a b c : Reg), ty ∈ allTypes → tagOf (s.reg a) = ty →
    (∃ t, exec (.mov ty d a) s = .next t ∧ Puts d (s.reg a) s t) ∧
    ∀ choice, tagOf (s.reg b) = ty → s.reg c = .bool choice →
      ∃ t, exec (.sel ty d a b c) s = .next t ∧
        Puts d (if choice then s.reg b else s.reg a) s t

/-- CONST makes false and true, the zero and the one of a field, and the identity of a point type
(40_data_movement.md R171). -/
def Obligations.ConstMakesZeroOneIdentity : Prop :=
  ∀ (s : State) (ty : TCode) (d : Reg) (k : BitVec 10), paramsOk s.params = true → k.toNat ≤ 1 →
    (∃ t, exec (.const .bool d k) s = .next t ∧ Puts d (.bool (k.toNat == 1)) s t) ∧
    (ty ∈ fieldTypes → ∃ t x, exec (.const ty d k) s = .next t ∧ Puts d x s t ∧ tagOf x = ty ∧
      valueOk s.params x = true ∧
      coeffs s.params x = k.toNat :: List.replicate (coeffCount ty - 1) 0) ∧
    (ty ∈ pointTypes → ∃ t x, exec (.const ty d 0) s = .next t ∧ Puts d x s t ∧ tagOf x = ty ∧
      valueOk s.params x = true ∧
      (ty = .g1a → flagOf x = some true ∧ coeffs s.params x = [0, 1]) ∧
      (ty = .g1p → coeffs s.params x = [0, 1, 0]) ∧
      (ty = .g2a → flagOf x = some true ∧ coeffs s.params x = [0, 0, 1, 0]) ∧
      (ty = .g2p → coeffs s.params x = [0, 0, 1, 0, 0, 0]) ∧
      (ty = .eda → coeffs s.params x = [0, 1]) ∧
      (ty = .ede → coeffs s.params x = [0, 1, 0, 1]))

/-! ### The arithmetic kernel and the tower -/

/-- val_F and mont_F are inverse bijections on [0, P_F): val(m) = m·R⁻¹ and mont(v) = v·R modulo P_F;
equal raw integers and equal canonical values are the same (41_field_kernel.md R201). -/
def Obligations.MontgomeryFormIsABijection : Prop :=
  ∀ (w : Nat) (F : BaseField w), w = 256 ∨ w = 384 → baseFieldOk F = true →
    (∀ v, v < F.p.toNat → canonical F (montOf F v) = true ∧
      (montOf F v).toNat = v * 2 ^ w % F.p.toNat ∧ valOf F (montOf F v) = v) ∧
    (∀ m, canonical F m = true → valOf F m < F.p.toNat ∧
      valOf F m * 2 ^ w % F.p.toNat = m.toNat ∧ montOf F (valOf F m) = m) ∧
    (∀ a b, canonical F a = true → canonical F b = true → (valOf F a = valOf F b ↔ a = b))

/-- The Montgomery reduction and multiplication, by the rule's algorithm, are exact: the result is below
the modulus and is t·R⁻¹ and a·b·R⁻¹ modulo P_F, so that values multiply (41_field_kernel.md R207,
R208, R209, R210). -/
def Obligations.MontgomeryProductIsExact : Prop :=
  ∀ (w : Nat) (F : BaseField w), w = 256 ∨ w = 384 → baseFieldOk F = true →
    montOf F 1 = F.one ∧
    (∀ t, t < F.p.toNat * 2 ^ w → canonical F (montReduce F t) = true ∧
      (montReduce F t).toNat * 2 ^ w % F.p.toNat = t % F.p.toNat) ∧
    (∀ a b, canonical F a = true → canonical F b = true → canonical F (montMul F a b) = true ∧
      (montMul F a b).toNat * 2 ^ w % F.p.toNat = a.toNat * b.toNat % F.p.toNat ∧
      valOf F (montMul F a b) = valOf F a * valOf F b % F.p.toNat ∧
      valOf F (fsqr F a) = valOf F a ^ 2 % F.p.toNat)

/-- A valid addition chain computes a^(P_F - 2), the element the invert engine's direct power gives
(41_field_kernel.md R211, R212). -/
def Obligations.ValidChainComputesTheInversePower : Prop :=
  ∀ (w : Nat) (F : BaseField w), w = 256 ∨ w = 384 → baseFieldOk F = true →
    ∀ a, canonical F a = true →
      ∃ x, runChain F a = some x ∧ canonical F x = true ∧
        valOf F x = valOf F a ^ (F.p.toNat - 2) % F.p.toNat ∧ (a ≠ 0 → finv F a = some x)

/-- The five fields' functions satisfy the commutative ring axioms on canonical elements, and their
derived functions and tests are what their names say (41_field_kernel.md R216, 42_extension_tower.md
R254, R255). -/
def Obligations.FieldsAreCommutativeRings : Prop :=
  ∀ P : ParamStore, paramsOk P = true →
    RingLaws (frOps P) (fun a => canonical P.fr a = true) ∧
    RingLaws (fqOps P) (fun a => canonical P.fq a = true) ∧
    RingLaws (fq2Ops P) (fun a => canonical2 P a = true) ∧
    RingLaws (fq6Ops P) (fun a => canonical6 P a = true) ∧
    RingLaws (fq12Ops P) (fun a => canonical12 P a = true)

/-- The generators of the tower: u² = BETA, v³ = XI, w² = v, and an element is the sum of its
components times the powers of its level's generator (42_extension_tower.md R240, R241, R246, R249). -/
def Obligations.TowerGeneratorsSatisfyTheirEquations : Prop :=
  ∀ P : ParamStore, paramsOk P = true →
    let one := P.fq.one
    let u : Fq2 := ⟨0, one⟩
    let v : Fq6 := ⟨zero2, one2 P, zero2⟩
    let w : Fq12 := ⟨zero6, one6 P⟩
    let in2 := fun a : Fq => (⟨a, 0⟩ : Fq2)
    let in6 := fun a : Fq2 => (⟨a, zero2, zero2⟩ : Fq6)
    let in12 := fun a : Fq6 => (⟨a, zero6⟩ : Fq12)
    mul2 P u u = in2 P.beta ∧ mul6 P (mul6 P v v) v = in6 P.xi ∧ mul12 P w w = in12 v ∧
    (∀ a, canonical2 P a = true → a = add2 P (in2 a.c0) (mul2 P (in2 a.c1) u)) ∧
    (∀ a, canonical6 P a = true →
      a = add6 P (add6 P (in6 a.c0) (mul6 P (in6 a.c1) v)) (mul6 P (in6 a.c2) (mul6 P v v))) ∧
    (∀ a, canonical12 P a = true → a = add12 P (in12 a.c0) (mul12 P (in12 a.c1) w))

/-! ### Field commands -/

/-- ADD, SUB, DBL and NEG of every field type act on each canonical coefficient modulo the modulus
(43_field_instructions.md R281 to R284, 42_extension_tower.md R242, R247, R250). -/
def Obligations.AdditiveCommandsActOnCoefficients : Prop :=
  ∀ (s : State) (ty : TCode) (d a b : Reg), paramsOk s.params = true → ty ∈ fieldTypes →
    tagOf (s.reg a) = ty → tagOf (s.reg b) = ty → valueOk s.params (s.reg a) = true →
    valueOk s.params (s.reg b) = true →
    let p := modulusOf s.params ty
    let us := coeffs s.params (s.reg a)
    let vs := coeffs s.params (s.reg b)
    (∃ t x, exec (.add ty d a b) s = .next t ∧ Puts d x s t ∧ tagOf x = ty ∧
      valueOk s.params x = true ∧ coeffs s.params x = List.zipWith (fun u v => (u + v) % p) us vs) ∧
    (∃ t x, exec (.sub ty d a b) s = .next t ∧ Puts d x s t ∧ tagOf x = ty ∧
      valueOk s.params x = true ∧
      coeffs s.params x = List.zipWith (fun u v => (u + p - v) % p) us vs) ∧
    (∃ t x, exec (.dbl ty d a) s = .next t ∧ Puts d x s t ∧ tagOf x = ty ∧
      valueOk s.params x = true ∧ coeffs s.params x = us.map (fun u => 2 * u % p)) ∧
    (∃ t x, exec (.neg ty d a) s = .next t ∧ Puts d x s t ∧ tagOf x = ty ∧
      valueOk s.params x = true ∧ coeffs s.params x = us.map (fun u => (p - u) % p))

/-- MUL: the product of the canonical values for FR and FQ; for FQ2 the product in FQ[u]/(u² - BETA);
for FQ6 the product in FQ2[v]/(v³ - XI); for FQ12 the product in FQ6[w]/(w² - v). SQR writes what MUL
of the operand with itself writes (43_field_instructions.md R285, R286, 42_extension_tower.md R243,
R247, R250). -/
def Obligations.MultiplyIsTheFieldProduct : Prop :=
  ∀ (s : State) (d a b : Reg), paramsOk s.params = true →
    valueOk s.params (s.reg a) = true → valueOk s.params (s.reg b) = true →
    let P := s.params
    let p := P.fq.p.toNat
    (∀ ty ∈ fieldTypes, tagOf (s.reg a) = ty → ∃ t x, exec (.sqr ty d a) s = .next t ∧
      exec (.mul ty d a a) s = .next t ∧ Puts d x s t ∧ tagOf x = ty) ∧
    (∀ u v, s.reg a = .fr u → s.reg b = .fr v → ∃ t x, exec (.mul .fr d a b) s = .next t ∧
      Puts d (.fr x) s t ∧ canonical P.fr x = true ∧
      valOf P.fr x = valOf P.fr u * valOf P.fr v % P.fr.p.toNat) ∧
    (∀ u v, s.reg a = .fq u → s.reg b = .fq v → ∃ t x, exec (.mul .fq d a b) s = .next t ∧
      Puts d (.fq x) s t ∧ canonical P.fq x = true ∧
      valOf P.fq x = valOf P.fq u * valOf P.fq v % p) ∧
    (∀ u v, s.reg a = .fq2 u → s.reg b = .fq2 v → ∃ t x, exec (.mul .fq2 d a b) s = .next t ∧
      Puts d (.fq2 x) s t ∧ canonical2 P x = true ∧
      valOf P.fq x.c0 = (valOf P.fq u.c0 * valOf P.fq v.c0 +
        valOf P.fq P.beta * (valOf P.fq u.c1 * valOf P.fq v.c1)) % p ∧
      valOf P.fq x.c1 =
        (valOf P.fq u.c0 * valOf P.fq v.c1 + valOf P.fq u.c1 * valOf P.fq v.c0) % p) ∧
    (∀ u v, s.reg a = .fq6 u → s.reg b = .fq6 v → ∃ t x, exec (.mul .fq6 d a b) s = .next t ∧
      Puts d (.fq6 x) s t ∧
      x.c0 = add2 P (mul2 P u.c0 v.c0)
        (mul2 P P.xi (add2 P (mul2 P u.c1 v.c2) (mul2 P u.c2 v.c1))) ∧
      x.c1 = add2 P (add2 P (mul2 P u.c0 v.c1) (mul2 P u.c1 v.c0))
        (mul2 P P.xi (mul2 P u.c2 v.c2)) ∧
      x.c2 = add2 P (add2 P (mul2 P u.c0 v.c2) (mul2 P u.c1 v.c1)) (mul2 P u.c2 v.c0)) ∧
    (∀ u v, s.reg a = .fq12 u → s.reg b = .fq12 v → ∃ t x, exec (.mul .fq12 d a b) s = .next t ∧
      Puts d (.fq12 x) s t ∧
      x.c0 = add6 P (mul6 P u.c0 v.c0)
        (mul6 P ⟨zero2, one2 P, zero2⟩ (mul6 P u.c1 v.c1)) ∧
      x.c1 = add6 P (mul6 P u.c0 v.c1) (mul6 P u.c1 v.c0))

/-- INV on FR and FQ with a prime modulus: None exactly for zero, else the multiplicative inverse
(43_field_instructions.md R287, 41_field_kernel.md R211). -/
def Obligations.InverseInPrimeFields : Prop :=
  ∀ (s : State) (ty : TCode) (d a : Reg) (u : Nat), paramsOk s.params = true →
    (modulusOf s.params ty).Prime → ty = .fr ∨ ty = .fq → tagOf (s.reg a) = ty →
    valueOk s.params (s.reg a) = true → coeffs s.params (s.reg a) = [u] →
    (u = 0 → ∃ t, exec (.inv ty d a) s = .next t ∧ GivesNone d s t) ∧
    (u ≠ 0 → ∃ t x v, exec (.inv ty d a) s = .next t ∧ Puts d x s t ∧ tagOf x = ty ∧
      valueOk s.params x = true ∧ coeffs s.params x = [v] ∧ u * v % modulusOf s.params ty = 1)

/-- INV on FQ2, FQ6 and FQ12 of a conforming parameter set: None exactly for zero, else the
multiplicative inverse (43_field_instructions.md R287, 42_extension_tower.md R244, R248, R250). -/
def Obligations.InverseInTowerFields : Prop :=
  ∀ (s : State) (d a : Reg), Conforming s.params → valueOk s.params (s.reg a) = true →
    let P := s.params
    (∀ u, s.reg a = .fq2 u →
      (u = zero2 → ∃ t, exec (.inv .fq2 d a) s = .next t ∧ GivesNone d s t) ∧
      (u ≠ zero2 → ∃ t x, exec (.inv .fq2 d a) s = .next t ∧ Puts d (.fq2 x) s t ∧
        canonical2 P x = true ∧ mul2 P u x = one2 P)) ∧
    (∀ u, s.reg a = .fq6 u →
      (u = zero6 → ∃ t, exec (.inv .fq6 d a) s = .next t ∧ GivesNone d s t) ∧
      (u ≠ zero6 → ∃ t x, exec (.inv .fq6 d a) s = .next t ∧ Puts d (.fq6 x) s t ∧
        canonical6 P x = true ∧ mul6 P u x = one6 P)) ∧
    (∀ u, s.reg a = .fq12 u →
      (u = zero12 → ∃ t, exec (.inv .fq12 d a) s = .next t ∧ GivesNone d s t) ∧
      (u ≠ zero12 → ∃ t x, exec (.inv .fq12 d a) s = .next t ∧ Puts d (.fq12 x) s t ∧
        canonical12 P x = true ∧ mul12 P u x = one12 P))

/-- MRED multiplies the canonical value by R⁻¹ modulo P_F: raw m becomes the raw integer m·R⁻¹
(43_field_instructions.md R288). -/
def Obligations.ReduceDividesByR : Prop :=
  ∀ (s : State) (d a : Reg), paramsOk s.params = true → valueOk s.params (s.reg a) = true →
    (∀ m, s.reg a = .fr m → ∃ t x, exec (.mred .fr d a) s = .next t ∧ Puts d (.fr x) s t ∧
      x.toNat < s.params.fr.p.toNat ∧ x.toNat * 2 ^ 256 % s.params.fr.p.toNat = m.toNat ∧
      valOf s.params.fr x * 2 ^ 256 % s.params.fr.p.toNat = valOf s.params.fr m) ∧
    (∀ m, s.reg a = .fq m → ∃ t x, exec (.mred .fq d a) s = .next t ∧ Puts d (.fq x) s t ∧
      x.toNat < s.params.fq.p.toNat ∧ x.toNat * 2 ^ 384 % s.params.fq.p.toNat = m.toNat ∧
      valOf s.params.fq x * 2 ^ 384 % s.params.fq.p.toNat = valOf s.params.fq m)

/-- EQ, ISZERO and ISONE write the BOOL that says whether the canonical values are equal, zero, one
(43_field_instructions.md R289, R290, R291). -/
def Obligations.FieldTestsCompareCanonicalValues : Prop :=
  ∀ (s : State) (ty : TCode) (d a b : Reg), paramsOk s.params = true → ty ∈ fieldTypes →
    tagOf (s.reg a) = ty → valueOk s.params (s.reg a) = true →
    (tagOf (s.reg b) = ty → valueOk s.params (s.reg b) = true →
      ∃ t r, exec (.eq ty d a b) s = .next t ∧ Puts d (.bool r) s t ∧
        (r = true ↔ coeffs s.params (s.reg a) = coeffs s.params (s.reg b))) ∧
    (∃ t r, exec (.iszero ty d a) s = .next t ∧ Puts d (.bool r) s t ∧
      (r = true ↔ ∀ v ∈ coeffs s.params (s.reg a), v = 0)) ∧
    (∃ t r, exec (.isone ty d a) s = .next t ∧ Puts d (.bool r) s t ∧
      (r = true ↔
        coeffs s.params (s.reg a) = 1 :: List.replicate (coeffCount ty - 1) 0))

/-- MULNR is the product by the tower non-residue, XI on FQ2 and v = (0, 1, 0) on FQ6; CONJ keeps the
lower half of the coefficients and negates the upper half (43_field_instructions.md R292, R293,
42_extension_tower.md R245, R248). -/
def Obligations.MulnrAndConjOnTheTower : Prop :=
  ∀ (s : State) (d a : Reg), paramsOk s.params = true → valueOk s.params (s.reg a) = true →
    (∀ u, s.reg a = .fq2 u → ∃ t, exec (.mulnr .fq2 d a) s = .next t ∧
      Puts d (.fq2 (mul2 s.params u s.params.xi)) s t) ∧
    (∀ u, s.reg a = .fq6 u → ∃ t, exec (.mulnr .fq6 d a) s = .next t ∧
      Puts d (.fq6 (mul6 s.params u ⟨zero2, one2 s.params, zero2⟩)) s t) ∧
    (∀ ty, ty = .fq2 ∨ ty = .fq12 → tagOf (s.reg a) = ty →
      let half := coeffCount ty / 2
      let us := coeffs s.params (s.reg a)
      ∃ t x, exec (.conj ty d a) s = .next t ∧ Puts d x s t ∧ tagOf x = ty ∧
        valueOk s.params x = true ∧
        coeffs s.params x =
          us.take half ++ (us.drop half).map (fun u => (modulusOf s.params ty - u) % modulusOf s.params ty))

/-- FROB of index i is the power map x ↦ x^(P_FQ^i) on FQ2, FQ6 and FQ12 of a conforming parameter set
(43_field_instructions.md R294, 42_extension_tower.md R251, R253). -/
def Obligations.FrobeniusIsThePowerMap : Prop :=
  ∀ (s : State) (d a : Reg) (i : BitVec 10), Conforming s.params → i.toNat ≤ 11 →
    valueOk s.params (s.reg a) = true →
    let P := s.params
    let q := P.fq.p.toNat ^ i.toNat
    (∀ u, s.reg a = .fq2 u → ∃ t, exec (.frob .fq2 d a i) s = .next t ∧
      Puts d (.fq2 (powOf (fq2Ops P) u q)) s t) ∧
    (∀ u, s.reg a = .fq6 u → ∃ t, exec (.frob .fq6 d a i) s = .next t ∧
      Puts d (.fq6 (powOf (fq6Ops P) u q)) s t) ∧
    (∀ u, s.reg a = .fq12 u → ∃ t, exec (.frob .fq12 d a i) s = .next t ∧
      Puts d (.fq12 (powOf (fq12Ops P) u q)) s t)

/-! ### Curve commands -/

/-- PADD and PDBL convert an affine operand first and write the group's complete formula of the
projective or extended operands (45_curve_instructions.md R370, R371, R372). -/
def Obligations.AddAndDoublePointsByTheFormulas : Prop :=
  ∀ (s : State) (d a b : Reg),
    let P := s.params
    (∀ p q, HoldsG1 P (s.reg a) p → HoldsG1 P (s.reg b) q →
      (∃ t, exec (.padd .g1p d a b) s = .next t ∧ Puts d (.g1p (addW (fqOps P) P.b3G1 p q)) s t) ∧
      ∃ t, exec (.pdbl .g1p d a) s = .next t ∧ Puts d (.g1p (dblW (fqOps P) P.b3G1 p)) s t) ∧
    (∀ p q, HoldsG2 P (s.reg a) p → HoldsG2 P (s.reg b) q →
      (∃ t, exec (.padd .g2p d a b) s = .next t ∧ Puts d (.g2p (addW (fq2Ops P) P.b3G2 p q)) s t) ∧
      ∃ t, exec (.pdbl .g2p d a) s = .next t ∧ Puts d (.g2p (dblW (fq2Ops P) P.b3G2 p)) s t) ∧
    (∀ p q, HoldsEd P (s.reg a) p → HoldsEd P (s.reg b) q →
      (∃ t, exec (.padd .ede d a b) s = .next t ∧ Puts d (.ede (addE P p q)) s t) ∧
      ∃ t, exec (.pdbl .ede d a) s = .next t ∧ Puts d (.ede (dblE P p)) s t)

/-- PNEG negates y of a Weierstrass point and x (and T) of an Edwards point; an affine identity gives
the None result (45_curve_instructions.md R373, 44_curve_group_law.md R331). -/
def Obligations.NegatePointOrNone : Prop :=
  ∀ (s : State) (d a : Reg),
    let P := s.params
    (∀ p, s.reg a = .g1p p → ∃ t, exec (.pneg .g1p d a) s = .next t ∧
      Puts d (.g1p ⟨p.x, fneg P.fq p.y, p.z⟩) s t) ∧
    (∀ p, s.reg a = .g2p p → ∃ t, exec (.pneg .g2p d a) s = .next t ∧
      Puts d (.g2p ⟨p.x, neg2 P p.y, p.z⟩) s t) ∧
    (∀ p, s.reg a = .ede p → ∃ t, exec (.pneg .ede d a) s = .next t ∧
      Puts d (.ede ⟨fneg P.fr p.x, p.y, fneg P.fr p.t, p.z⟩) s t) ∧
    (∀ p, s.reg a = .g1a p → ∃ t, exec (.pneg .g1a d a) s = .next t ∧
      if p.inf then GivesNone d s t else Puts d (.g1a ⟨p.x, fneg P.fq p.y, false⟩) s t) ∧
    (∀ p, s.reg a = .g2a p → ∃ t, exec (.pneg .g2a d a) s = .next t ∧
      if p.inf then GivesNone d s t else Puts d (.g2a ⟨p.x, neg2 P p.y, false⟩) s t) ∧
    (∀ p, s.reg a = .eda p → ∃ t, exec (.pneg .eda d a) s = .next t ∧
      if p = ⟨0, P.fr.one⟩ then GivesNone d s t else Puts d (.eda ⟨fneg P.fr p.x, p.y⟩) s t)

/-- TOPROJ then TOAFF gives the affine point back, through the projective or extended form of
44_curve_group_law.md R325 (45_curve_instructions.md R374, R375). -/
def Obligations.ToAffineUndoesToProjective : Prop :=
  ∀ (s : State) (d e a : Reg), paramsOk s.params = true → valueOk s.params (s.reg a) = true →
    let P := s.params
    (∀ u, s.reg a = .g1a u → ∃ t t', exec (.toproj .g1p d a) s = .next t ∧
      Puts d (.g1p (if u.inf then ⟨0, P.fq.one, 0⟩ else ⟨u.x, u.y, P.fq.one⟩)) s t ∧
      exec (.toaff .g1a e d) t = .next t' ∧ Puts e (.g1a u) t t') ∧
    (∀ u, s.reg a = .g2a u → ∃ t t', exec (.toproj .g2p d a) s = .next t ∧
      Puts d (.g2p (if u.inf then ⟨zero2, one2 P, zero2⟩ else ⟨u.x, u.y, one2 P⟩)) s t ∧
      exec (.toaff .g2a e d) t = .next t' ∧ Puts e (.g2a u) t t') ∧
    (∀ u, s.reg a = .eda u → ∃ t t', exec (.toproj .ede d a) s = .next t ∧
      Puts d (.ede ⟨u.x, u.y, montMul P.fr u.x u.y, P.fr.one⟩) s t ∧
      exec (.toaff .eda e d) t = .next t' ∧ Puts e (.eda u) t t')

/-- TOAFF on a conforming parameter set: (X/Z, Y/Z), the flagged identity when a Weierstrass point has
Z = 0, the None result when an extended one has Z = 0 (45_curve_instructions.md R375,
44_curve_group_law.md R326). -/
def Obligations.ToAffineDividesByZ : Prop :=
  ∀ (s : State) (d a : Reg), Conforming s.params → valueOk s.params (s.reg a) = true →
    let P := s.params
    (∀ p, s.reg a = .g1p p → ∃ t u, exec (.toaff .g1a d a) s = .next t ∧ Puts d (.g1a u) s t ∧
      if p.z = 0 then u = ⟨0, P.fq.one, true⟩
      else u.inf = false ∧ montMul P.fq u.x p.z = p.x ∧ montMul P.fq u.y p.z = p.y) ∧
    (∀ p, s.reg a = .g2p p → ∃ t u, exec (.toaff .g2a d a) s = .next t ∧ Puts d (.g2a u) s t ∧
      if p.z = zero2 then u = ⟨zero2, one2 P, true⟩
      else u.inf = false ∧ mul2 P u.x p.z = p.x ∧ mul2 P u.y p.z = p.y) ∧
    (∀ p, s.reg a = .ede p → ∃ t, exec (.toaff .eda d a) s = .next t ∧
      if p.z = 0 then GivesNone d s t
      else ∃ u, Puts d (.eda u) s t ∧ montMul P.fr u.x p.z = p.x ∧ montMul P.fr u.y p.z = p.y)

/-- PEQ compares cross-multiplied coordinates of projective and extended points, and the flag and the
coordinates of affine ones (45_curve_instructions.md R376, 44_curve_group_law.md R332). -/
def Obligations.PointEqualityCrossMultiplies : Prop :=
  ∀ (s : State) (d a b : Reg),
    let P := s.params
    (∀ p q, s.reg a = .g1p p → s.reg b = .g1p q → ∃ t r, exec (.peq .g1p d a b) s = .next t ∧
      Puts d (.bool r) s t ∧ (r = true ↔ montMul P.fq p.x q.z = montMul P.fq q.x p.z ∧
        montMul P.fq p.y q.z = montMul P.fq q.y p.z)) ∧
    (∀ p q, s.reg a = .g2p p → s.reg b = .g2p q → ∃ t r, exec (.peq .g2p d a b) s = .next t ∧
      Puts d (.bool r) s t ∧ (r = true ↔ mul2 P p.x q.z = mul2 P q.x p.z ∧
        mul2 P p.y q.z = mul2 P q.y p.z)) ∧
    (∀ p q, s.reg a = .ede p → s.reg b = .ede q → ∃ t r, exec (.peq .ede d a b) s = .next t ∧
      Puts d (.bool r) s t ∧ (r = true ↔ montMul P.fr p.x q.z = montMul P.fr q.x p.z ∧
        montMul P.fr p.y q.z = montMul P.fr q.y p.z)) ∧
    (∀ p q, s.reg a = .g1a p → s.reg b = .g1a q → ∃ t r, exec (.peq .g1a d a b) s = .next t ∧
      Puts d (.bool r) s t ∧
      (r = true ↔ p.inf = q.inf ∧ (p.inf = true ∨ (p.x = q.x ∧ p.y = q.y)))) ∧
    (∀ p q, s.reg a = .g2a p → s.reg b = .g2a q → ∃ t r, exec (.peq .g2a d a b) s = .next t ∧
      Puts d (.bool r) s t ∧
      (r = true ↔ p.inf = q.inf ∧ (p.inf = true ∨ (p.x = q.x ∧ p.y = q.y)))) ∧
    (∀ p q, s.reg a = .eda p → s.reg b = .eda q → ∃ t r, exec (.peq .eda d a b) s = .next t ∧
      Puts d (.bool r) s t ∧ (r = true ↔ p.x = q.x ∧ p.y = q.y))

/-- ISID and ONCURVE, on canonical values: the identity tests of 44_curve_group_law.md R333 and the
curve equations of R334 in integers modulo P_FQ (G1) and P_FR (ED) and in FQ2 (G2)
(45_curve_instructions.md R377, R378). -/
def Obligations.IdentityAndCurveTests : Prop :=
  ∀ (s : State) (ty : TCode) (d a : Reg), paramsOk s.params = true → ty ∈ pointTypes →
    tagOf (s.reg a) = ty → valueOk s.params (s.reg a) = true →
    let P := s.params
    let p := P.fq.p.toNat
    let r := P.fr.p.toNat
    let B := valOf P.fq P.bG1
    let A := valOf P.fr P.edA
    let D := valOf P.fr P.edD
    let F := fq2Ops P
    ∃ t isIdentity t' isOnCurve, exec (.isid ty d a) s = .next t ∧ Puts d (.bool isIdentity) s t ∧
      exec (.oncurve ty d a) s = .next t' ∧ Puts d (.bool isOnCurve) s t' ∧
      match s.reg a with
      | .g1a u =>
        let x := valOf P.fq u.x
        let y := valOf P.fq u.y
        (isIdentity = true ↔ u.inf = true) ∧
          (isOnCurve = true ↔ u.inf = true ∨ y ^ 2 % p = (x ^ 3 + B) % p)
      | .g1p u =>
        let x := valOf P.fq u.x
        let y := valOf P.fq u.y
        let z := valOf P.fq u.z
        (isIdentity = true ↔ z = 0) ∧
          (isOnCurve = true ↔
            if z = 0 then x = 0 ∧ y ≠ 0 else y ^ 2 * z % p = (x ^ 3 + B * z ^ 3) % p)
      | .g2a u =>
        (isIdentity = true ↔ u.inf = true) ∧
          (isOnCurve = true ↔ u.inf = true ∨ powOf F u.y 2 = F.add (powOf F u.x 3) P.bG2)
      | .g2p u =>
        (isIdentity = true ↔ u.z = zero2) ∧
          (isOnCurve = true ↔ if u.z = zero2 then u.x = zero2 ∧ u.y ≠ zero2
            else F.mul (powOf F u.y 2) u.z = F.add (powOf F u.x 3) (F.mul P.bG2 (powOf F u.z 3)))
      | .eda u =>
        let x := valOf P.fr u.x
        let y := valOf P.fr u.y
        (isIdentity = true ↔ x = 0 ∧ y = 1) ∧
          (isOnCurve = true ↔ (A * x ^ 2 + y ^ 2) % r = (1 + D * x ^ 2 * y ^ 2) % r)
      | .ede u =>
        let x := valOf P.fr u.x
        let y := valOf P.fr u.y
        let z := valOf P.fr u.z
        (isIdentity = true ↔ x = 0 ∧ y = z) ∧
          (isOnCurve = true ↔ z ≠ 0 ∧ x * y % r = valOf P.fr u.t * z % r ∧
            (A * x ^ 2 + y ^ 2) * z ^ 2 % r = (z ^ 4 + D * x ^ 2 * y ^ 2) % r)
      | _ => False

/-- On valid projective and extended points of a conforming parameter set PEQ's test is equality of the
points: it holds exactly when the affine forms are the same (44_curve_group_law.md R332, R336). -/
def Obligations.EqualityIsEqualityOfAffineForms : Prop :=
  ∀ P : ParamStore, Conforming P →
    (∀ p q, ValidProj (fqOps P) (canonical P.fq) P.bG1 p → ValidProj (fqOps P) (canonical P.fq) P.bG1 q →
      ((g1Ops P).eqE p q = true ↔ (g1Ops P).toAff p = (g1Ops P).toAff q)) ∧
    (∀ p q, ValidProj (fq2Ops P) (canonical2 P) P.bG2 p → ValidProj (fq2Ops P) (canonical2 P) P.bG2 q →
      ((g2Ops P).eqE p q = true ↔ (g2Ops P).toAff p = (g2Ops P).toAff q)) ∧
    (∀ p q, ValidExt P p → ValidExt P q →
      ((edOps P).eqE p q = true ↔ (edOps P).toAff p = (edOps P).toAff q))

/-- P + (-P) = O: add_W gives (0, λ, 0) and add_E gives (0, λ, 0, λ) with λ not 0, for every valid
point and every representative of its negative; and O + P and P + O are P for every representative of O
(44_curve_group_law.md R336). -/
def Obligations.NegativeCancelsAndIdentityIsNeutral : Prop :=
  ∀ P : ParamStore, Conforming P →
    (∀ p q o, ValidProj (fqOps P) (canonical P.fq) P.bG1 p → ValidProj (fqOps P) (canonical P.fq) P.bG1 q →
      ValidProj (fqOps P) (canonical P.fq) P.bG1 o →
      ((g1Ops P).eqE q ((g1Ops P).negE p) = true → ∃ l, l ≠ 0 ∧ (g1Ops P).add p q = ⟨0, l, 0⟩) ∧
      ((g1Ops P).isidE o = true → (g1Ops P).eqE ((g1Ops P).add o p) p = true ∧
        (g1Ops P).eqE ((g1Ops P).add p o) p = true)) ∧
    (∀ p q o, ValidProj (fq2Ops P) (canonical2 P) P.bG2 p → ValidProj (fq2Ops P) (canonical2 P) P.bG2 q →
      ValidProj (fq2Ops P) (canonical2 P) P.bG2 o →
      ((g2Ops P).eqE q ((g2Ops P).negE p) = true → ∃ l, l ≠ zero2 ∧ (g2Ops P).add p q = ⟨zero2, l, zero2⟩) ∧
      ((g2Ops P).isidE o = true → (g2Ops P).eqE ((g2Ops P).add o p) p = true ∧
        (g2Ops P).eqE ((g2Ops P).add p o) p = true)) ∧
    (∀ p q o, ValidExt P p → ValidExt P q → ValidExt P o →
      ((edOps P).eqE q ((edOps P).negE p) = true → ∃ l, l ≠ 0 ∧ (edOps P).add p q = ⟨0, l, 0, l⟩) ∧
      ((edOps P).isidE o = true → (edOps P).eqE ((edOps P).add o p) p = true ∧
        (edOps P).eqE ((edOps P).add p o) p = true))

/-- The Weierstrass addition of two finite points with different x is their chord sum; the addition of
two representatives of one finite point and the doubling of a finite point are its tangent sum: for
every valid representative, in G1 and G2 of a conforming parameter set (44_curve_group_law.md R320,
R322, R327, R328, R336). -/
def Obligations.WeierstrassSumIsChordOrTangent : Prop :=
  ∀ P : ParamStore, Conforming P →
    (∀ p q u v, ValidProj (fqOps P) (canonical P.fq) P.bG1 p → ValidProj (fqOps P) (canonical P.fq) P.bG1 q →
      (g1Ops P).toAff p = some u → (g1Ops P).toAff q = some v → u.inf = false → v.inf = false →
      (u.x ≠ v.x → ChordSum (fqOps P) u v ((g1Ops P).add p q)) ∧
      (u = v → TangentSum (fqOps P) u ((g1Ops P).add p q)) ∧
      TangentSum (fqOps P) u ((g1Ops P).dbl p)) ∧
    (∀ p q u v, ValidProj (fq2Ops P) (canonical2 P) P.bG2 p → ValidProj (fq2Ops P) (canonical2 P) P.bG2 q →
      (g2Ops P).toAff p = some u → (g2Ops P).toAff q = some v → u.inf = false → v.inf = false →
      (u.x ≠ v.x → ChordSum (fq2Ops P) u v ((g2Ops P).add p q)) ∧
      (u = v → TangentSum (fq2Ops P) u ((g2Ops P).add p q)) ∧
      TangentSum (fq2Ops P) u ((g2Ops P).dbl p))

/-- The Edwards addition of two points is the Edwards sum x3·(1 + d·x1·x2·y1·y2) = x1·y2 + y1·x2,
y3·(1 - d·x1·x2·y1·y2) = y1·y2 - a·x1·x2 with nonzero denominators, and doubling a point gives the
point that adding two of its representatives gives: for every valid representative, on a conforming
parameter set (44_curve_group_law.md R320, R323, R329, R330, R336). -/
def Obligations.EdwardsSumIsTheAdditionLaw : Prop :=
  ∀ P : ParamStore, Conforming P → ∀ (p q : EdExtended) (u v : EdAffine), ValidExt P p → ValidExt P q →
    (edOps P).toAff p = some u → (edOps P).toAff q = some v →
    let F := frOps P
    let r := addE P p q
    let m := F.mul P.edD (F.mul (F.mul u.x v.x) (F.mul u.y v.y))
    r.z ≠ 0 ∧ F.add F.one m ≠ 0 ∧ F.sub F.one m ≠ 0 ∧
      F.mul r.x (F.add F.one m) = F.mul r.z (F.add (F.mul u.x v.y) (F.mul u.y v.x)) ∧
      F.mul r.y (F.sub F.one m) =
        F.mul r.z (F.sub (F.mul u.y v.y) (F.mul P.edA (F.mul u.x v.x))) ∧
      F.mul r.t r.z = F.mul r.x r.y ∧
      (u = v → eqEE P (dblE P p) r = true)

/-- Completeness of the Weierstrass functions: on valid points of a conforming parameter set the sum,
the double and the negative are valid points, in G1 and G2 (44_curve_group_law.md R335). -/
def Obligations.WeierstrassFunctionsKeepPointsValid : Prop :=
  ∀ P : ParamStore, Conforming P →
    (∀ p q, ValidProj (fqOps P) (canonical P.fq) P.bG1 p → ValidProj (fqOps P) (canonical P.fq) P.bG1 q →
      ValidProj (fqOps P) (canonical P.fq) P.bG1 ((g1Ops P).add p q) ∧
      ValidProj (fqOps P) (canonical P.fq) P.bG1 ((g1Ops P).dbl p) ∧
      ValidProj (fqOps P) (canonical P.fq) P.bG1 ((g1Ops P).negE p)) ∧
    (∀ p q, ValidProj (fq2Ops P) (canonical2 P) P.bG2 p → ValidProj (fq2Ops P) (canonical2 P) P.bG2 q →
      ValidProj (fq2Ops P) (canonical2 P) P.bG2 ((g2Ops P).add p q) ∧
      ValidProj (fq2Ops P) (canonical2 P) P.bG2 ((g2Ops P).dbl p) ∧
      ValidProj (fq2Ops P) (canonical2 P) P.bG2 ((g2Ops P).negE p))

/-- Completeness of the Edwards functions: on valid points of a conforming parameter set the sum, the
double and the negative are valid points (44_curve_group_law.md R335). -/
def Obligations.EdwardsFunctionsKeepPointsValid : Prop :=
  ∀ P : ParamStore, Conforming P → ∀ p q, ValidExt P p → ValidExt P q →
    ValidExt P (addE P p q) ∧ ValidExt P (dblE P p) ∧ ValidExt P (negEE P p)

/-- NAF recoding: the 257 digits of k < 2^256 sum to k, no two adjacent ones are nonzero, the highest
nonzero one is 1, and they are the only such digits (46_scalar_multiplier.md R400, R401). -/
def Obligations.NafDigitsRepresentTheScalar : Prop :=
  let adjacentFree := fun ds : List NafDigit =>
    ∀ i : Nat, i + 1 < ds.length → ds[i]? = some NafDigit.zero ∨ ds[i + 1]? = some NafDigit.zero
  ∀ k : Nat, k < 2 ^ 256 →
    (naf k).length = 257 ∧ nafSum (naf k) = (k : Int) ∧ adjacentFree (naf k) ∧
    (∀ i : Nat, i < 257 → (naf k)[i]? ≠ some NafDigit.zero →
      (∀ j : Nat, i < j → j < 257 → (naf k)[j]? = some NafDigit.zero) →
      (naf k)[i]? = some NafDigit.one) ∧
    ∀ ds : List NafDigit, ds.length = 257 → nafSum ds = (k : Int) → adjacentFree ds → ds = naf k

/-- PSMUL runs the loop over the 257 NAF digits of the scalar's canonical value, most significant
first, from the identity: double, then add P or -P when the digit is 1 or -1
(46_scalar_multiplier.md R402, R403). -/
def Obligations.ScalarMultiplyRunsTheNafLoop : Prop :=
  ∀ (s : State) (d a b : Reg) (m : Fr), s.reg b = .fr m →
    let P := s.params
    let digits := (naf (valOf P.fr m)).reverse
    (∀ p, HoldsG1 P (s.reg a) p → ∃ t, exec (.psmul .g1p d a b) s = .next t ∧
      Puts d (.g1p (digits.foldl (fun acc (c : NafDigit) =>
        let e := dblW (fqOps P) P.b3G1 acc
        if c = .zero then e
        else addW (fqOps P) P.b3G1 e (if c = .minusOne then ⟨p.x, fneg P.fq p.y, p.z⟩ else p))
        ⟨0, P.fq.one, 0⟩)) s t) ∧
    (∀ p, HoldsG2 P (s.reg a) p → ∃ t, exec (.psmul .g2p d a b) s = .next t ∧
      Puts d (.g2p (digits.foldl (fun acc (c : NafDigit) =>
        let e := dblW (fq2Ops P) P.b3G2 acc
        if c = .zero then e
        else addW (fq2Ops P) P.b3G2 e (if c = .minusOne then ⟨p.x, neg2 P p.y, p.z⟩ else p))
        ⟨zero2, one2 P, zero2⟩)) s t) ∧
    (∀ p, HoldsEd P (s.reg a) p → ∃ t, exec (.psmul .ede d a b) s = .next t ∧
      Puts d (.ede (digits.foldl (fun acc (c : NafDigit) =>
        let e := dblE P acc
        if c = .zero then e
        else addE P e
          (if c = .minusOne then ⟨fneg P.fr p.x, p.y, fneg P.fr p.t, p.z⟩ else p))
        ⟨0, P.fr.one, 0, P.fr.one⟩)) s t)

/-- PSMUL by 0 gives (0, 1, 0) for G1P and G2P and (0, -1, 0, -1) for EDE; by 1 it gives a point equal
to P (46_scalar_multiplier.md R404). -/
def Obligations.ScalarZeroAndOne : Prop :=
  ∀ (s : State) (d a b : Reg) (m : Fr), paramsOk s.params = true → s.reg b = .fr m →
    canonical s.params.fr m = true → valueOk s.params (s.reg a) = true →
    let P := s.params
    let minus := fneg P.fr P.fr.one
    (∀ p, HoldsG1 P (s.reg a) p → ∃ t r, exec (.psmul .g1p d a b) s = .next t ∧
      Puts d (.g1p r) s t ∧ (valOf P.fr m = 0 → r = ⟨0, P.fq.one, 0⟩) ∧
      (valOf P.fr m = 1 → eqWP (fqOps P) r p = true)) ∧
    (∀ p, HoldsG2 P (s.reg a) p → ∃ t r, exec (.psmul .g2p d a b) s = .next t ∧
      Puts d (.g2p r) s t ∧ (valOf P.fr m = 0 → r = ⟨zero2, one2 P, zero2⟩) ∧
      (valOf P.fr m = 1 → eqWP (fq2Ops P) r p = true)) ∧
    (∀ p, HoldsEd P (s.reg a) p → ∃ t r, exec (.psmul .ede d a b) s = .next t ∧
      Puts d (.ede r) s t ∧ (valOf P.fr m = 0 → r = ⟨0, minus, 0, minus⟩) ∧
      (valOf P.fr m = 1 → eqEE P r p = true))

/-! ### The host port and reset -/

/-- An illegal host access is answered (ERROR, 0) and has no effect on any state but STATUS.BUSERR; a
misaligned or narrow access inside the IOBUF range while BUSY is one (20_memory.md R82, R83). -/
def Obligations.IllegalAccessOnlySetsBuserr : Prop :=
  ∀ (s : State) (a : Access) (rest : List Input), s.inputs = .host a :: rest →
    (a.size ≠ .b8 ∨ a.addr.toNat % 8 ≠ 0 ∨
      (0x0040 ≤ a.addr.toNat ∧ (a.addr.toNat < 0x2000 ∨ 0x4000 ≤ a.addr.toNat))) →
    step s = .next { s with
      status := { s.status with buserr := true }
      inputs := rest
      response := some ⟨.error, 0⟩ }

/-- The interlock: a legal host access to IOBUF while BUSY is answered (ERROR, 0), sets HOSTCONF and
does nothing else; while not BUSY a read returns the word, OKAY, and a write stores the data in the
word and in no other byte, OKAY (20_memory.md R87). -/
def Obligations.IobufIsInterlockedWithTheEngine : Prop :=
  ∀ (s : State) (a : Access) (rest : List Input), s.inputs = .host a :: rest → a.size = .b8 →
    a.addr.toNat % 8 = 0 → 0x2000 ≤ a.addr.toNat → a.addr.toNat < 0x4000 →
    (s.busy = true → step s = .next { s with
      status := { s.status with hostconf := true }
      inputs := rest
      response := some ⟨.error, 0⟩ }) ∧
    (s.busy = false → a.kind = .read → ∃ v : Word,
      v.toNat = s.iobufWord ((a.addr.toNat - 0x2000) / 8) ∧
      step s = .next { s with inputs := rest, response := some ⟨.okay, v⟩ }) ∧
    (s.busy = false → a.kind = .write → ∃ t, step s = .next t ∧
      t.iobufWord ((a.addr.toNat - 0x2000) / 8) = a.wdata.toNat ∧
      (∀ x, x < a.addr.toNat - 0x2000 ∨ a.addr.toNat - 0x2000 + 8 ≤ x →
        t.iobufByte x = s.iobufByte x) ∧
      t = { s with iobuf := t.iobuf, inputs := rest, response := some ⟨.okay, 0⟩ })

/-- A write to CMD while QCOUNT < 16 and FAULT = 0 appends the word's low 32 bits and sets no bit;
otherwise the word is dropped and CMDOVF is set; both are answered OKAY (60_exceptions.md R440). -/
def Obligations.CommandWriteAppendsOrOverflows : Prop :=
  ∀ (s : State) (data : Word) (rest : List Input),
    s.inputs = .host ⟨.write, 0x0020, .b8, data⟩ :: rest →
    (s.qcount < 16 → s.status.fault = false → step s = .next { s with
      fifo := s.fifo ++ [data.extractLsb' 0 32]
      inputs := rest
      response := some ⟨.okay, 0⟩ }) ∧
    (16 ≤ s.qcount ∨ s.status.fault = true → step s = .next { s with
      status := { s.status with cmdovf := true }
      inputs := rest
      response := some ⟨.okay, 0⟩ })

/-- A host write to STATUS clears each of bits 7 to 2 whose written bit is 1 and leaves the rest of the
block unchanged (10_state.md R45). -/
def Obligations.StatusWriteClearsStickyBits : Prop :=
  ∀ (s : State) (data : Word) (rest : List Input),
    s.inputs = .host ⟨.write, 0x0018, .b8, data⟩ :: rest →
    ∃ t, step s = .next t ∧
      (∀ i, 2 ≤ i → i ≤ 7 →
        t.statusWord.getLsbD i = (s.statusWord.getLsbD i && !data.getLsbD i)) ∧
      (∀ i, i < 2 ∨ 8 ≤ i → t.statusWord.getLsbD i = s.statusWord.getLsbD i) ∧
      t = { s with status := t.status, inputs := rest, response := some ⟨.okay, 0⟩ }

/-- What a read of each register returns, and that a read changes nothing but the answer: ID, CFG, CTRL,
STATUS bit by bit, CMD, CMD_COUNT, FAULT_INFO and the reserved offset (10_state.md R40 to R44, R46 to
R50). -/
def Obligations.RegisterReadsReturnTheirFields : Prop :=
  ∀ (s : State) (addr : BitVec 16) (data : Word) (rest : List Input), s.qcount ≤ 16 →
    addr.toNat % 8 = 0 → addr.toNat < 0x0040 → s.inputs = .host ⟨.read, addr, .b8, data⟩ :: rest →
    ∃ v : Word, step s = .next { s with inputs := rest, response := some ⟨.okay, v⟩ } ∧
      (addr = 0x0000 → v = 0x4B4F474100010000) ∧
      (addr = 0x0008 → v.toNat = 0x0000060404001010 + 2 ^ 48 * s.params.paramId.toNat) ∧
      (addr = 0x0010 → v.toNat = s.doneIe.toNat + 2 * s.faultIe.toNat) ∧
      (addr = 0x0018 → v.toNat = s.busy.toNat + 2 * s.status.fault.toNat + 4 * s.status.done.toNat +
        8 * s.status.none.toNat + 16 * s.status.decfail.toNat + 32 * s.status.cmdovf.toNat +
        64 * s.status.hostconf.toNat + 128 * s.status.buserr.toNat +
        256 * s.status.faultCode.toNat + 65536 * s.qcount) ∧
      (addr = 0x0020 → v = 0) ∧ (addr = 0x0028 → v = s.cmdCount) ∧ (addr = 0x0030 → v = s.faultInfo) ∧
      (addr = 0x0038 → v = 0)

/-- A host turn other than a soft reset reaches no value register, CMD_COUNT, FAULT_INFO, in-flight slot
or parameter; a write to a read-only register or to the reserved offset changes nothing
(10_state.md R31, R40, R49, R53). -/
def Obligations.HostTurnsReachNoValueRegister : Prop :=
  ∀ (s : State) (a : Access) (rest : List Input), s.inputs = .host a :: rest →
    (∀ t, step s = .next t → ¬(a.kind = .write ∧ a.addr = 0x0010 ∧ a.wdata.getLsbD 9 = true) →
      t.v = s.v ∧ t.cmdCount = s.cmdCount ∧ t.faultInfo = s.faultInfo ∧ t.inflight = s.inflight ∧
        t.params = s.params ∧ t.hardResets = s.hardResets) ∧
    (a.kind = .write → a.size = .b8 → a.addr ∈ [0x0000, 0x0008, 0x0028, 0x0030, 0x0038] →
      step s = .next { s with inputs := rest, response := some ⟨.okay, 0⟩ })

/-- The state after reset holds the values of 10_state.md R55 (every register EMPTY, FIFO and slot empty,
CTRL, STATUS, CMD_COUNT and FAULT_INFO 0, irq 0, the ENGINE IDLE), and a soft reset and a hard reset put
every piece of state there: the soft reset keeps IOBUF's contents and is answered OKAY; after the hard
reset no byte of IOBUF is a written one. The schedule, the last answer and the count of hard resets are
the model's own (log 3, 4, 5) (70_reset_and_hazards.md R471, R472, 60_exceptions.md R442). -/
def Obligations.ResetsRestoreTheResetValues : Prop :=
  ((∀ r, State.reset.reg r = .empty) ∧ State.reset.fifo = [] ∧ State.reset.inflight = none ∧
    State.reset.ctrlWord = 0 ∧ State.reset.statusWord = 0 ∧ State.reset.cmdCount = 0 ∧
    State.reset.faultInfo = 0 ∧ State.reset.irq = false ∧ State.reset.engineCondition = .idle) ∧
  ∀ (s : State) (rest : List Input),
    (∀ data : Word, data.getLsbD 9 = true → s.inputs = .host ⟨.write, 0x0010, .b8, data⟩ :: rest →
      step s = .next { State.reset with
        iobuf := s.iobuf
        params := s.params
        inputs := rest
        response := some ⟨.okay, 0⟩
        hardResets := s.hardResets }) ∧
    (s.inputs = .hardReset :: rest → step s = .next { State.reset with
        params := s.params
        inputs := rest
        hardResets := s.hardResets + 1 })

/-- irq is (DONE and DONE_IE) or (FAULT and FAULT_IE) at every state, and BUSY is 1 exactly when FAULT
is 0 and the slot is full or the FIFO is not empty (10_state.md R50, R51). -/
def Obligations.InterruptAndBusyFollowTheState : Prop :=
  ∀ s : State,
    (s.irq = true ↔ (s.status.done = true ∧ s.doneIe = true) ∨
      (s.status.fault = true ∧ s.faultIe = true)) ∧
    (s.busy = true ↔ s.status.fault = false ∧ (s.inflight ≠ none ∨ 0 < s.qcount))

/-! ### Whole-machine rules -/

/-- Every step keeps the relations of `StateInv`: canonical registers, the canonical form of IOBUF, at
most 16 queued commands, an empty slot and FIFO while FAULTED, a fault code exactly with a fault
(10_state.md R35, R37, 60_exceptions.md R422, R426, R428). -/
def Obligations.StepKeepsGoodStates : Prop :=
  ∀ s t : State, StateInv s → step s = .next t → StateInv t

/-- The state after reset satisfies `StateInv` (10_state.md R35, R55; the default parameter instance of
00_scope.md R7 is the model's choice, log 1). -/
def Obligations.ResetIsAGoodState : Prop :=
  StateInv State.reset

/-- Every step keeps every point in a register on its curve, on a conforming parameter set
(10_state.md R35, 44_curve_group_law.md R335). -/
def Obligations.StepKeepsPointsOnTheirCurves : Prop :=
  ∀ s t : State, Conforming s.params → StateInv s → PointsOk s → step s = .next t → PointsOk t

/-- Bits 7 to 2 of STATUS are sticky: no step but a host write to STATUS, a write of SRST to CTRL and a
hard reset clears one, and no step at all writes the parameter storage (10_state.md R44, R53). -/
def Obligations.StickyBitsStayAndParametersNeverChange : Prop :=
  ∀ s t : State, step s = .next t → t.params = s.params ∧
    ((∀ rest, s.inputs ≠ .hardReset :: rest) →
      (∀ a rest, s.inputs = .host a :: rest → a.kind = .write →
        a.addr ≠ 0x0018 ∧ ¬(a.addr = 0x0010 ∧ a.wdata.getLsbD 9 = true)) →
      (s.status.done = true → t.status.done = true) ∧ (s.status.none = true → t.status.none = true) ∧
      (s.status.decfail = true → t.status.decfail = true) ∧
      (s.status.cmdovf = true → t.status.cmdovf = true) ∧
      (s.status.hostconf = true → t.status.hostconf = true) ∧
      (s.status.buserr = true → t.status.buserr = true))

/-- A register becomes EMPTY only by a reset, by the None result of an INV, PNEG or TOAFF in the slot or
by the failed decode of an LD or LDM in the slot, whose destination it is; that command then retires
with this result and its flag, and changes no other register (10_state.md R34, 60_exceptions.md R431,
R432). -/
def Obligations.RegistersEmptyOnlyByNoneOrDecfail : Prop :=
  ∀ (s t : State) (r : Reg), step s = .next t → s.reg r ≠ .empty →
    t.reg r = .empty →
    (∃ rest, s.inputs = .hardReset :: rest) ∨
    (∃ data rest, s.inputs = .host ⟨.write, 0x0010, .b8, data⟩ :: rest ∧ data.getLsbD 9 = true) ∨
    (∃ w ty a, s.inflight = some w ∧ (decode w = .instr (.inv ty r a) ∨
      decode w = .instr (.pneg ty r a) ∨ decode w = .instr (.toaff ty r a)) ∧
      GivesNone r s.nextTurn t) ∨
    (∃ w ty off, s.inflight = some w ∧ (decode w = .instr (.ld ty r off) ∨
      decode w = .instr (.ldm ty r off)) ∧ GivesDecfail r s.nextTurn t)

/-- A command's result depends only on its source registers, the IOBUF bytes it reads and the
parameters: two states that agree on these meet the same fault, write the same value to the
destination, store the same bytes and set the same result flags (20_memory.md R93). -/
def Obligations.ResultDependsOnlyOnSources : Prop :=
  ∀ (i : Instr) (s s' : State), s.params = s'.params →
    (∀ r tags, (r, tags) ∈ sourcesOf i → s.reg r = s'.reg r) →
    (∀ a, readsByte i a → s.iobufByte a = s'.iobufByte a) →
    faultOf s i = faultOf s' i ∧
    (faultOf s i = none → ∃ t t' none decfail,
      exec i s = .next t ∧ exec i s' = .next t' ∧
      (∀ d, destOf i = some d → t.reg d = t'.reg d) ∧
      (∀ ty d off, i = .st ty d off ∨ i = .stm ty d off →
        ∀ a, 8 * off.toNat ≤ a → a < 8 * (off.toNat + wordsOf ty) → t.iobufByte a = t'.iobufByte a) ∧
      t.status.none = (s.status.none || none) ∧ t'.status.none = (s'.status.none || none) ∧
      t.status.decfail = (s.status.decfail || decfail) ∧
      t'.status.decfail = (s'.status.decfail || decfail))
end

