-- ==== Sys2Proof/Laws/State.lean ====
section
/-!
SUPPORT. What each update of the state leaves in each field, and reading a register or a byte after it.
-/

namespace Sys2Proof.Machine

/-! ### `State.setReg` -/

@[simp] theorem State.setReg_v (s : State) (r : Reg) (x : Value) :
    (s.setReg r x).v = s.v.set r.toNat x r.isLt := rfl
@[simp] theorem State.setReg_iobuf (s : State) (r : Reg) (x : Value) :
    (s.setReg r x).iobuf = s.iobuf := rfl
@[simp] theorem State.setReg_fifo (s : State) (r : Reg) (x : Value) :
    (s.setReg r x).fifo = s.fifo := rfl
@[simp] theorem State.setReg_inflight (s : State) (r : Reg) (x : Value) :
    (s.setReg r x).inflight = s.inflight := rfl
@[simp] theorem State.setReg_doneIe (s : State) (r : Reg) (x : Value) :
    (s.setReg r x).doneIe = s.doneIe := rfl
@[simp] theorem State.setReg_faultIe (s : State) (r : Reg) (x : Value) :
    (s.setReg r x).faultIe = s.faultIe := rfl
@[simp] theorem State.setReg_status (s : State) (r : Reg) (x : Value) :
    (s.setReg r x).status = s.status := rfl
@[simp] theorem State.setReg_cmdCount (s : State) (r : Reg) (x : Value) :
    (s.setReg r x).cmdCount = s.cmdCount := rfl
@[simp] theorem State.setReg_faultInfo (s : State) (r : Reg) (x : Value) :
    (s.setReg r x).faultInfo = s.faultInfo := rfl
@[simp] theorem State.setReg_params (s : State) (r : Reg) (x : Value) :
    (s.setReg r x).params = s.params := rfl
@[simp] theorem State.setReg_response (s : State) (r : Reg) (x : Value) :
    (s.setReg r x).response = s.response := rfl
@[simp] theorem State.setReg_inputs (s : State) (r : Reg) (x : Value) :
    (s.setReg r x).inputs = s.inputs := rfl
@[simp] theorem State.setReg_hardResets (s : State) (r : Reg) (x : Value) :
    (s.setReg r x).hardResets = s.hardResets := rfl

/-! ### `State.memWrite` -/

@[simp] theorem State.memWrite_v (s : State) (a n v : Nat) : (s.memWrite a n v).v = s.v := rfl
@[simp] theorem State.memWrite_iobuf (s : State) (a n v : Nat) :
    (s.memWrite a n v).iobuf = Memory.writeN s.iobuf a n v := rfl
@[simp] theorem State.memWrite_fifo (s : State) (a n v : Nat) :
    (s.memWrite a n v).fifo = s.fifo := rfl
@[simp] theorem State.memWrite_inflight (s : State) (a n v : Nat) :
    (s.memWrite a n v).inflight = s.inflight := rfl
@[simp] theorem State.memWrite_doneIe (s : State) (a n v : Nat) :
    (s.memWrite a n v).doneIe = s.doneIe := rfl
@[simp] theorem State.memWrite_faultIe (s : State) (a n v : Nat) :
    (s.memWrite a n v).faultIe = s.faultIe := rfl
@[simp] theorem State.memWrite_status (s : State) (a n v : Nat) :
    (s.memWrite a n v).status = s.status := rfl
@[simp] theorem State.memWrite_cmdCount (s : State) (a n v : Nat) :
    (s.memWrite a n v).cmdCount = s.cmdCount := rfl
@[simp] theorem State.memWrite_faultInfo (s : State) (a n v : Nat) :
    (s.memWrite a n v).faultInfo = s.faultInfo := rfl
@[simp] theorem State.memWrite_params (s : State) (a n v : Nat) :
    (s.memWrite a n v).params = s.params := rfl
@[simp] theorem State.memWrite_response (s : State) (a n v : Nat) :
    (s.memWrite a n v).response = s.response := rfl
@[simp] theorem State.memWrite_inputs (s : State) (a n v : Nat) :
    (s.memWrite a n v).inputs = s.inputs := rfl
@[simp] theorem State.memWrite_hardResets (s : State) (a n v : Nat) :
    (s.memWrite a n v).hardResets = s.hardResets := rfl

/-! ### `State.setNone` -/

@[simp] theorem State.setNone_v (s : State) : (s.setNone).v = s.v := rfl
@[simp] theorem State.setNone_iobuf (s : State) : (s.setNone).iobuf = s.iobuf := rfl
@[simp] theorem State.setNone_fifo (s : State) : (s.setNone).fifo = s.fifo := rfl
@[simp] theorem State.setNone_inflight (s : State) : (s.setNone).inflight = s.inflight := rfl
@[simp] theorem State.setNone_doneIe (s : State) : (s.setNone).doneIe = s.doneIe := rfl
@[simp] theorem State.setNone_faultIe (s : State) : (s.setNone).faultIe = s.faultIe := rfl
@[simp] theorem State.setNone_status (s : State) :
    (s.setNone).status = { s.status with none := true } := rfl
@[simp] theorem State.setNone_cmdCount (s : State) : (s.setNone).cmdCount = s.cmdCount := rfl
@[simp] theorem State.setNone_faultInfo (s : State) : (s.setNone).faultInfo = s.faultInfo := rfl
@[simp] theorem State.setNone_params (s : State) : (s.setNone).params = s.params := rfl
@[simp] theorem State.setNone_response (s : State) : (s.setNone).response = s.response := rfl
@[simp] theorem State.setNone_inputs (s : State) : (s.setNone).inputs = s.inputs := rfl
@[simp] theorem State.setNone_hardResets (s : State) : (s.setNone).hardResets = s.hardResets := rfl

/-! ### `State.setDecfail` -/

@[simp] theorem State.setDecfail_v (s : State) : (s.setDecfail).v = s.v := rfl
@[simp] theorem State.setDecfail_iobuf (s : State) : (s.setDecfail).iobuf = s.iobuf := rfl
@[simp] theorem State.setDecfail_fifo (s : State) : (s.setDecfail).fifo = s.fifo := rfl
@[simp] theorem State.setDecfail_inflight (s : State) : (s.setDecfail).inflight = s.inflight := rfl
@[simp] theorem State.setDecfail_doneIe (s : State) : (s.setDecfail).doneIe = s.doneIe := rfl
@[simp] theorem State.setDecfail_faultIe (s : State) : (s.setDecfail).faultIe = s.faultIe := rfl
@[simp] theorem State.setDecfail_status (s : State) :
    (s.setDecfail).status = { s.status with decfail := true } := rfl
@[simp] theorem State.setDecfail_cmdCount (s : State) : (s.setDecfail).cmdCount = s.cmdCount := rfl
@[simp] theorem State.setDecfail_faultInfo (s : State) :
    (s.setDecfail).faultInfo = s.faultInfo := rfl
@[simp] theorem State.setDecfail_params (s : State) : (s.setDecfail).params = s.params := rfl
@[simp] theorem State.setDecfail_response (s : State) : (s.setDecfail).response = s.response := rfl
@[simp] theorem State.setDecfail_inputs (s : State) : (s.setDecfail).inputs = s.inputs := rfl
@[simp] theorem State.setDecfail_hardResets (s : State) :
    (s.setDecfail).hardResets = s.hardResets := rfl

/-! ### `State.setDone` -/

@[simp] theorem State.setDone_v (s : State) : (s.setDone).v = s.v := rfl
@[simp] theorem State.setDone_iobuf (s : State) : (s.setDone).iobuf = s.iobuf := rfl
@[simp] theorem State.setDone_fifo (s : State) : (s.setDone).fifo = s.fifo := rfl
@[simp] theorem State.setDone_inflight (s : State) : (s.setDone).inflight = s.inflight := rfl
@[simp] theorem State.setDone_doneIe (s : State) : (s.setDone).doneIe = s.doneIe := rfl
@[simp] theorem State.setDone_faultIe (s : State) : (s.setDone).faultIe = s.faultIe := rfl
@[simp] theorem State.setDone_status (s : State) :
    (s.setDone).status = { s.status with done := true } := rfl
@[simp] theorem State.setDone_cmdCount (s : State) : (s.setDone).cmdCount = s.cmdCount := rfl
@[simp] theorem State.setDone_faultInfo (s : State) : (s.setDone).faultInfo = s.faultInfo := rfl
@[simp] theorem State.setDone_params (s : State) : (s.setDone).params = s.params := rfl
@[simp] theorem State.setDone_response (s : State) : (s.setDone).response = s.response := rfl
@[simp] theorem State.setDone_inputs (s : State) : (s.setDone).inputs = s.inputs := rfl
@[simp] theorem State.setDone_hardResets (s : State) : (s.setDone).hardResets = s.hardResets := rfl

/-! ### `State.setCmdovf` -/

@[simp] theorem State.setCmdovf_v (s : State) : (s.setCmdovf).v = s.v := rfl
@[simp] theorem State.setCmdovf_iobuf (s : State) : (s.setCmdovf).iobuf = s.iobuf := rfl
@[simp] theorem State.setCmdovf_fifo (s : State) : (s.setCmdovf).fifo = s.fifo := rfl
@[simp] theorem State.setCmdovf_inflight (s : State) : (s.setCmdovf).inflight = s.inflight := rfl
@[simp] theorem State.setCmdovf_doneIe (s : State) : (s.setCmdovf).doneIe = s.doneIe := rfl
@[simp] theorem State.setCmdovf_faultIe (s : State) : (s.setCmdovf).faultIe = s.faultIe := rfl
@[simp] theorem State.setCmdovf_status (s : State) :
    (s.setCmdovf).status = { s.status with cmdovf := true } := rfl
@[simp] theorem State.setCmdovf_cmdCount (s : State) : (s.setCmdovf).cmdCount = s.cmdCount := rfl
@[simp] theorem State.setCmdovf_faultInfo (s : State) : (s.setCmdovf).faultInfo = s.faultInfo := rfl
@[simp] theorem State.setCmdovf_params (s : State) : (s.setCmdovf).params = s.params := rfl
@[simp] theorem State.setCmdovf_response (s : State) : (s.setCmdovf).response = s.response := rfl
@[simp] theorem State.setCmdovf_inputs (s : State) : (s.setCmdovf).inputs = s.inputs := rfl
@[simp] theorem State.setCmdovf_hardResets (s : State) :
    (s.setCmdovf).hardResets = s.hardResets := rfl

/-! ### `State.setHostconf` -/

@[simp] theorem State.setHostconf_v (s : State) : (s.setHostconf).v = s.v := rfl
@[simp] theorem State.setHostconf_iobuf (s : State) : (s.setHostconf).iobuf = s.iobuf := rfl
@[simp] theorem State.setHostconf_fifo (s : State) : (s.setHostconf).fifo = s.fifo := rfl
@[simp] theorem State.setHostconf_inflight (s : State) :
    (s.setHostconf).inflight = s.inflight := rfl
@[simp] theorem State.setHostconf_doneIe (s : State) : (s.setHostconf).doneIe = s.doneIe := rfl
@[simp] theorem State.setHostconf_faultIe (s : State) : (s.setHostconf).faultIe = s.faultIe := rfl
@[simp] theorem State.setHostconf_status (s : State) :
    (s.setHostconf).status = { s.status with hostconf := true } := rfl
@[simp] theorem State.setHostconf_cmdCount (s : State) :
    (s.setHostconf).cmdCount = s.cmdCount := rfl
@[simp] theorem State.setHostconf_faultInfo (s : State) :
    (s.setHostconf).faultInfo = s.faultInfo := rfl
@[simp] theorem State.setHostconf_params (s : State) : (s.setHostconf).params = s.params := rfl
@[simp] theorem State.setHostconf_response (s : State) :
    (s.setHostconf).response = s.response := rfl
@[simp] theorem State.setHostconf_inputs (s : State) : (s.setHostconf).inputs = s.inputs := rfl
@[simp] theorem State.setHostconf_hardResets (s : State) :
    (s.setHostconf).hardResets = s.hardResets := rfl

/-! ### `State.setBuserr` -/

@[simp] theorem State.setBuserr_v (s : State) : (s.setBuserr).v = s.v := rfl
@[simp] theorem State.setBuserr_iobuf (s : State) : (s.setBuserr).iobuf = s.iobuf := rfl
@[simp] theorem State.setBuserr_fifo (s : State) : (s.setBuserr).fifo = s.fifo := rfl
@[simp] theorem State.setBuserr_inflight (s : State) : (s.setBuserr).inflight = s.inflight := rfl
@[simp] theorem State.setBuserr_doneIe (s : State) : (s.setBuserr).doneIe = s.doneIe := rfl
@[simp] theorem State.setBuserr_faultIe (s : State) : (s.setBuserr).faultIe = s.faultIe := rfl
@[simp] theorem State.setBuserr_status (s : State) :
    (s.setBuserr).status = { s.status with buserr := true } := rfl
@[simp] theorem State.setBuserr_cmdCount (s : State) : (s.setBuserr).cmdCount = s.cmdCount := rfl
@[simp] theorem State.setBuserr_faultInfo (s : State) : (s.setBuserr).faultInfo = s.faultInfo := rfl
@[simp] theorem State.setBuserr_params (s : State) : (s.setBuserr).params = s.params := rfl
@[simp] theorem State.setBuserr_response (s : State) : (s.setBuserr).response = s.response := rfl
@[simp] theorem State.setBuserr_inputs (s : State) : (s.setBuserr).inputs = s.inputs := rfl
@[simp] theorem State.setBuserr_hardResets (s : State) :
    (s.setBuserr).hardResets = s.hardResets := rfl

/-! ### `State.answer` -/

@[simp] theorem State.answer_v (s : State) (resp : Resp) (rdata : Word) :
    (s.answer resp rdata).v = s.v := rfl
@[simp] theorem State.answer_iobuf (s : State) (resp : Resp) (rdata : Word) :
    (s.answer resp rdata).iobuf = s.iobuf := rfl
@[simp] theorem State.answer_fifo (s : State) (resp : Resp) (rdata : Word) :
    (s.answer resp rdata).fifo = s.fifo := rfl
@[simp] theorem State.answer_inflight (s : State) (resp : Resp) (rdata : Word) :
    (s.answer resp rdata).inflight = s.inflight := rfl
@[simp] theorem State.answer_doneIe (s : State) (resp : Resp) (rdata : Word) :
    (s.answer resp rdata).doneIe = s.doneIe := rfl
@[simp] theorem State.answer_faultIe (s : State) (resp : Resp) (rdata : Word) :
    (s.answer resp rdata).faultIe = s.faultIe := rfl
@[simp] theorem State.answer_status (s : State) (resp : Resp) (rdata : Word) :
    (s.answer resp rdata).status = s.status := rfl
@[simp] theorem State.answer_cmdCount (s : State) (resp : Resp) (rdata : Word) :
    (s.answer resp rdata).cmdCount = s.cmdCount := rfl
@[simp] theorem State.answer_faultInfo (s : State) (resp : Resp) (rdata : Word) :
    (s.answer resp rdata).faultInfo = s.faultInfo := rfl
@[simp] theorem State.answer_params (s : State) (resp : Resp) (rdata : Word) :
    (s.answer resp rdata).params = s.params := rfl
@[simp] theorem State.answer_response (s : State) (resp : Resp) (rdata : Word) :
    (s.answer resp rdata).response = some ⟨resp, rdata⟩ := rfl
@[simp] theorem State.answer_inputs (s : State) (resp : Resp) (rdata : Word) :
    (s.answer resp rdata).inputs = s.inputs := rfl
@[simp] theorem State.answer_hardResets (s : State) (resp : Resp) (rdata : Word) :
    (s.answer resp rdata).hardResets = s.hardResets := rfl

/-! ### `State.nextTurn` -/

@[simp] theorem State.nextTurn_v (s : State) : (s.nextTurn).v = s.v := rfl
@[simp] theorem State.nextTurn_iobuf (s : State) : (s.nextTurn).iobuf = s.iobuf := rfl
@[simp] theorem State.nextTurn_fifo (s : State) : (s.nextTurn).fifo = s.fifo := rfl
@[simp] theorem State.nextTurn_inflight (s : State) : (s.nextTurn).inflight = s.inflight := rfl
@[simp] theorem State.nextTurn_doneIe (s : State) : (s.nextTurn).doneIe = s.doneIe := rfl
@[simp] theorem State.nextTurn_faultIe (s : State) : (s.nextTurn).faultIe = s.faultIe := rfl
@[simp] theorem State.nextTurn_status (s : State) : (s.nextTurn).status = s.status := rfl
@[simp] theorem State.nextTurn_cmdCount (s : State) : (s.nextTurn).cmdCount = s.cmdCount := rfl
@[simp] theorem State.nextTurn_faultInfo (s : State) : (s.nextTurn).faultInfo = s.faultInfo := rfl
@[simp] theorem State.nextTurn_params (s : State) : (s.nextTurn).params = s.params := rfl
@[simp] theorem State.nextTurn_response (s : State) : (s.nextTurn).response = s.response := rfl
@[simp] theorem State.nextTurn_inputs (s : State) : (s.nextTurn).inputs = s.inputs.tail := rfl
@[simp] theorem State.nextTurn_hardResets (s : State) :
    (s.nextTurn).hardResets = s.hardResets := rfl

/-! ### `retire` -/

@[simp] theorem retire_v (s : State) : (retire s).v = s.v := rfl
@[simp] theorem retire_iobuf (s : State) : (retire s).iobuf = s.iobuf := rfl
@[simp] theorem retire_fifo (s : State) : (retire s).fifo = s.fifo := rfl
@[simp] theorem retire_inflight (s : State) : (retire s).inflight = none := rfl
@[simp] theorem retire_doneIe (s : State) : (retire s).doneIe = s.doneIe := rfl
@[simp] theorem retire_faultIe (s : State) : (retire s).faultIe = s.faultIe := rfl
@[simp] theorem retire_status (s : State) :
    (retire s).status = { s.status with done := s.status.done || s.fifo.isEmpty } := rfl
@[simp] theorem retire_cmdCount (s : State) : (retire s).cmdCount = s.cmdCount + 1 := rfl
@[simp] theorem retire_faultInfo (s : State) : (retire s).faultInfo = s.faultInfo := rfl
@[simp] theorem retire_params (s : State) : (retire s).params = s.params := rfl
@[simp] theorem retire_response (s : State) : (retire s).response = s.response := rfl
@[simp] theorem retire_inputs (s : State) : (retire s).inputs = s.inputs := rfl
@[simp] theorem retire_hardResets (s : State) : (retire s).hardResets = s.hardResets := rfl

/-! ### `takeFault` -/

@[simp] theorem takeFault_v (c : FaultCode) (s : State) : (takeFault c s).v = s.v := rfl
@[simp] theorem takeFault_iobuf (c : FaultCode) (s : State) : (takeFault c s).iobuf = s.iobuf := rfl
@[simp] theorem takeFault_fifo (c : FaultCode) (s : State) : (takeFault c s).fifo = [] := rfl
@[simp] theorem takeFault_inflight (c : FaultCode) (s : State) :
    (takeFault c s).inflight = none := rfl
@[simp] theorem takeFault_doneIe (c : FaultCode) (s : State) :
    (takeFault c s).doneIe = s.doneIe := rfl
@[simp] theorem takeFault_faultIe (c : FaultCode) (s : State) :
    (takeFault c s).faultIe = s.faultIe := rfl
@[simp] theorem takeFault_status (c : FaultCode) (s : State) :
    (takeFault c s).status = { s.status with fault := true, faultCode := faultBits c } := rfl
@[simp] theorem takeFault_cmdCount (c : FaultCode) (s : State) :
    (takeFault c s).cmdCount = s.cmdCount := rfl
@[simp] theorem takeFault_faultInfo (c : FaultCode) (s : State) :
    (takeFault c s).faultInfo = s.cmdCount.extractLsb' 0 32 ++ s.inflightWord := rfl
@[simp] theorem takeFault_params (c : FaultCode) (s : State) :
    (takeFault c s).params = s.params := rfl
@[simp] theorem takeFault_response (c : FaultCode) (s : State) :
    (takeFault c s).response = s.response := rfl
@[simp] theorem takeFault_inputs (c : FaultCode) (s : State) :
    (takeFault c s).inputs = s.inputs := rfl
@[simp] theorem takeFault_hardResets (c : FaultCode) (s : State) :
    (takeFault c s).hardResets = s.hardResets := rfl

/-! ### `softReset` -/

@[simp] theorem softReset_v (s : State) : (softReset s).v = State.reset.v := rfl
@[simp] theorem softReset_iobuf (s : State) : (softReset s).iobuf = s.iobuf := rfl
@[simp] theorem softReset_fifo (s : State) : (softReset s).fifo = [] := rfl
@[simp] theorem softReset_inflight (s : State) : (softReset s).inflight = none := rfl
@[simp] theorem softReset_doneIe (s : State) : (softReset s).doneIe = false := rfl
@[simp] theorem softReset_faultIe (s : State) : (softReset s).faultIe = false := rfl
@[simp] theorem softReset_status (s : State) : (softReset s).status = Status.reset := rfl
@[simp] theorem softReset_cmdCount (s : State) : (softReset s).cmdCount = 0 := rfl
@[simp] theorem softReset_faultInfo (s : State) : (softReset s).faultInfo = 0 := rfl
@[simp] theorem softReset_params (s : State) : (softReset s).params = s.params := rfl
@[simp] theorem softReset_response (s : State) : (softReset s).response = s.response := rfl
@[simp] theorem softReset_inputs (s : State) : (softReset s).inputs = s.inputs := rfl
@[simp] theorem softReset_hardResets (s : State) : (softReset s).hardResets = s.hardResets := rfl

/-! ### `hardReset` -/

@[simp] theorem hardReset_v (s : State) : (hardReset s).v = State.reset.v := rfl
@[simp] theorem hardReset_iobuf (s : State) : (hardReset s).iobuf = [] := rfl
@[simp] theorem hardReset_fifo (s : State) : (hardReset s).fifo = [] := rfl
@[simp] theorem hardReset_inflight (s : State) : (hardReset s).inflight = none := rfl
@[simp] theorem hardReset_doneIe (s : State) : (hardReset s).doneIe = false := rfl
@[simp] theorem hardReset_faultIe (s : State) : (hardReset s).faultIe = false := rfl
@[simp] theorem hardReset_status (s : State) : (hardReset s).status = Status.reset := rfl
@[simp] theorem hardReset_cmdCount (s : State) : (hardReset s).cmdCount = 0 := rfl
@[simp] theorem hardReset_faultInfo (s : State) : (hardReset s).faultInfo = 0 := rfl
@[simp] theorem hardReset_params (s : State) : (hardReset s).params = s.params := rfl
@[simp] theorem hardReset_response (s : State) : (hardReset s).response = none := rfl
@[simp] theorem hardReset_inputs (s : State) : (hardReset s).inputs = s.inputs := rfl
@[simp] theorem hardReset_hardResets (s : State) :
    (hardReset s).hardResets = s.hardResets + 1 := rfl

/-! ### Registers -/

/-- Reading the register just written gives what was written (10_state.md R31). -/
@[simp] theorem State.reg_setReg (s : State) (r : Reg) (x : Value) : (s.setReg r x).reg r = x := by
  simp [State.reg, State.setReg]

/-- A write leaves every other register alone (10_state.md R31). -/
theorem State.reg_setReg_of_ne (s : State) {r r' : Reg} (x : Value) (h : r' ≠ r) :
    (s.setReg r x).reg r' = s.reg r' := by
  have h' : r.toNat ≠ r'.toNat := fun e => h (BitVec.eq_of_toNat_eq e.symm)
  simp [State.reg, State.setReg, h']

/-- Two states with the same registers read the same. -/
theorem State.reg_congr {s t : State} (h : t.v = s.v) (r : Reg) : t.reg r = s.reg r := by
  simp [State.reg, h]

/-- After reset every register is EMPTY (10_state.md R55). -/
@[simp] theorem State.reg_reset_v (r : Reg) : State.reset.v[r.toFin] = .empty := by
  simp [State.reset]

/-! ### Bytes of IOBUF -/

/-- A byte reads the same in two states with the same IOBUF and number of hard resets. -/
theorem State.iobufByte_congr {s t : State} (hm : t.iobuf = s.iobuf) (hr : t.hardResets = s.hardResets)
    (a : Nat) : t.iobufByte a = s.iobufByte a := by
  simp [State.iobufByte, hm, hr]

@[simp] theorem State.setReg_iobufByte (s : State) (r : Reg) (x : Value) (a : Nat) :
    (s.setReg r x).iobufByte a = s.iobufByte a := rfl
@[simp] theorem State.setNone_iobufByte (s : State) (a : Nat) : s.setNone.iobufByte a = s.iobufByte a := rfl
@[simp] theorem State.setDecfail_iobufByte (s : State) (a : Nat) :
    s.setDecfail.iobufByte a = s.iobufByte a := rfl
@[simp] theorem retire_iobufByte (s : State) (a : Nat) : (retire s).iobufByte a = s.iobufByte a := rfl
@[simp] theorem takeFault_iobufByte (c : FaultCode) (s : State) (a : Nat) :
    (takeFault c s).iobufByte a = s.iobufByte a := rfl

@[simp] theorem State.memWrite_reg (s : State) (a n v : Nat) (r : Reg) :
    (s.memWrite a n v).reg r = s.reg r := rfl
@[simp] theorem State.setNone_reg (s : State) (r : Reg) : s.setNone.reg r = s.reg r := rfl
@[simp] theorem State.setDecfail_reg (s : State) (r : Reg) : s.setDecfail.reg r = s.reg r := rfl
@[simp] theorem retire_reg (s : State) (r : Reg) : (retire s).reg r = s.reg r := rfl
@[simp] theorem takeFault_reg (c : FaultCode) (s : State) (r : Reg) :
    (takeFault c s).reg r = s.reg r := rfl

end Sys2Proof.Machine
end

