-- ==== Sys2Proof/Laws/Memory.lean ====
section
/-!
SUPPORT. The laws of IOBUF: a read after a write, writes leave other bytes alone, and every memory
operation keeps the canonical form (20_memory.md R85, R86).
-/

namespace Sys2Proof.Machine

/-! ### One byte -/

theorem Memory.read_write (m : Memory) (a : Nat) (b : Byte) (x : Nat) :
    Memory.read (Memory.write m a b) x = if x = a then some b else Memory.read m x := by
  induction m with
  | nil => simp [Memory.write, Memory.read]
  | cons c m ih =>
    obtain ⟨a', b'⟩ := c
    simp only [Memory.write]
    split
    · simp only [Memory.read]
    · split
      · next h => subst h; simp only [Memory.read]; split <;> rfl
      · simp only [Memory.read, ih]
        by_cases h : x = a
        · subst h; simp_all
        · simp [h]

/-- The first offset of a written memory is the written one or the old first one. -/
theorem Memory.rising_write_cons (a' : Nat) (b' : Byte) (m : Memory) (a : Nat) (b : Byte) (h : a' < a)
    (hm : Memory.rising ((a', b') :: m) = true) :
    Memory.rising ((a', b') :: Memory.write m a b) = true := by
  induction m generalizing a' b' with
  | nil => simp [Memory.write, Memory.rising, h]
  | cons c m ih =>
    obtain ⟨d, e⟩ := c
    simp only [Memory.rising, Bool.and_eq_true, decide_eq_true_eq] at hm
    by_cases h1 : a < d
    · simp [Memory.write, h1, Memory.rising, h, hm.2]
    · by_cases h2 : a = d
      · subst h2
        have : Memory.rising ((a, b) :: m) = true := by
          cases m with
          | nil => rfl
          | cons c m =>
            simp only [Memory.rising, Bool.and_eq_true, decide_eq_true_eq] at hm ⊢
            exact hm.2
        simp [Memory.write, Memory.rising, h, this]
      · have hlt : d < a := by omega
        simp [Memory.write, h1, h2, Memory.rising, hm.1, ih d e hlt hm.2]

theorem Memory.rising_write {m : Memory} (a : Nat) (b : Byte) (hm : Memory.rising m = true) :
    Memory.rising (Memory.write m a b) = true := by
  cases m with
  | nil => rfl
  | cons c m =>
    obtain ⟨d, e⟩ := c
    by_cases h1 : a < d
    · simp [Memory.write, h1, Memory.rising, hm]
    · by_cases h2 : a = d
      · subst h2
        cases m with
        | nil => simp [Memory.write, Memory.rising]
        | cons c m => simpa [Memory.write, Memory.rising] using hm
      · have hlt : d < a := by omega
        simpa [Memory.write, h1, h2] using Memory.rising_write_cons d e m a b hlt hm

theorem Memory.all_write {p : Host.Cell → Bool} {m : Memory} (a : Nat) (b : Byte)
    (ha : p (a, b) = true) (hm : m.all p = true) :
    (Memory.write m a b).all p = true := by
  induction m with
  | nil => simp [Memory.write, ha]
  | cons c m ih =>
    obtain ⟨d, e⟩ := c
    simp only [List.all_cons, Bool.and_eq_true] at hm
    by_cases h1 : a < d
    · simp [Memory.write, h1, ha, hm.1, hm.2]
    · by_cases h2 : a = d
      · subst h2; simp [Memory.write, ha, hm.2]
      · simp [Memory.write, h1, h2, hm.1, ih hm.2]

/-- A write inside IOBUF keeps the canonical form. -/
theorem Memory.wf_write {m : Memory} {a : Nat} (b : Byte) (ha : a < iobufBytes)
    (hm : Memory.wf m = true) : Memory.wf (Memory.write m a b) = true := by
  simp only [Memory.wf, Bool.and_eq_true] at hm ⊢
  exact ⟨Memory.rising_write a b hm.1,
    Memory.all_write a b (by simpa using ha) hm.2⟩

/-! ### Several bytes, little-endian -/

theorem Memory.read_writeN (m : Memory) (a n v x : Nat) :
    Memory.read (Memory.writeN m a n v) x =
      if a ≤ x ∧ x < a + n then some (BitVec.ofNat 8 (v / 256 ^ (x - a))) else Memory.read m x := by
  induction n generalizing a v with
  | zero => rw [Memory.writeN, if_neg (by omega)]
  | succ n ih =>
    rw [Memory.writeN, Memory.read_write, ih]
    by_cases h : x = a
    · subst h; simp
    · by_cases h1 : a + 1 ≤ x ∧ x < a + 1 + n
      · have h2 : a ≤ x ∧ x < a + (n + 1) := by omega
        have h3 : x - a = (x - (a + 1)) + 1 := by omega
        simp only [h, if_false, h1, h2, and_self, if_true]
        rw [h3, Nat.pow_succ, Nat.mul_comm, Nat.div_div_eq_div_mul]
      · have h2 : ¬(a ≤ x ∧ x < a + (n + 1)) := by omega
        rw [if_neg h, if_neg h1, if_neg h2]

/-- A write of `n` bytes inside IOBUF keeps the canonical form. -/
theorem Memory.wf_writeN {m : Memory} {a n : Nat} (v : Nat) (ha : a + n ≤ iobufBytes)
    (hm : Memory.wf m = true) : Memory.wf (Memory.writeN m a n v) = true := by
  induction n generalizing a v with
  | zero => exact hm
  | succ n ih => exact Memory.wf_write _ (by omega) (ih (v / 256) (by omega))

/-- The canonical form holds after reset (10_state.md R55). -/
theorem Memory.wf_reset : Memory.wf State.reset.iobuf = true := rfl

theorem State.iobufByte_memWrite (s : State) (a n v x : Nat) :
    (s.memWrite a n v).iobufByte x =
      if a ≤ x ∧ x < a + n then BitVec.ofNat 8 (v / 256 ^ (x - a)) else s.iobufByte x := by
  simp only [State.iobufByte, State.memWrite, Memory.read_writeN]
  split <;> rfl

/-- A read depends only on the bytes of its range. -/
theorem State.memRead_congr {s t : State} {a n : Nat}
    (h : ∀ x, a ≤ x → x < a + n → t.iobufByte x = s.iobufByte x) : t.memRead a n = s.memRead a n := by
  induction n generalizing a with
  | zero => rfl
  | succ n ih =>
    simp only [State.memRead]
    rw [h a (Nat.le_refl a) (by omega), ih fun x h1 h2 => h x (by omega) (by omega)]

/-- A read of `n` bytes is below 256^n. -/
theorem State.memRead_lt (s : State) (a n : Nat) : s.memRead a n < 256 ^ n := by
  induction n generalizing a with
  | zero => simp [State.memRead]
  | succ n ih =>
    have h1 := ih (a + 1)
    have h2 := (s.iobufByte a).isLt
    simp only [State.memRead, Nat.pow_succ]
    omega

/-- Reading the bytes just written gives the written integer's low bytes (20_memory.md R86). -/
theorem State.memRead_memWrite (s : State) (a n v : Nat) :
    (s.memWrite a n v).memRead a n = v % 256 ^ n := by
  have key : ∀ k b, b + k ≤ n →
      (s.memWrite a n v).memRead (a + b) k = v / 256 ^ b % 256 ^ k := by
    intro k
    induction k with
    | zero => intro b _; simp [State.memRead, Nat.mod_one]
    | succ k ih =>
      intro b hb
      have h : a ≤ a + b ∧ a + b < a + n := by omega
      rw [State.memRead, State.iobufByte_memWrite, if_pos h, Nat.add_assoc, ih (b + 1) (by omega)]
      have e : a + b - a = b := by omega
      have h1 : v / 256 ^ (b + 1) = v / 256 ^ b / 256 := by
        rw [Nat.pow_succ, Nat.div_div_eq_div_mul]
      have h2 : (256 : Nat) ^ (k + 1) = 256 * 256 ^ k := by rw [Nat.pow_succ, Nat.mul_comm]
      rw [e, BitVec.toNat_ofNat, h1, h2, Nat.mod_mul]
  simpa using key n 0 (by omega)

/-- Reading bytes apart from those just written gives what was there (20_memory.md R86). -/
theorem State.memRead_memWrite_disjoint (s : State) {a n v b k : Nat}
    (h : b + k ≤ a ∨ a + n ≤ b) : (s.memWrite a n v).memRead b k = s.memRead b k :=
  State.memRead_congr fun x h1 h2 => by
    rw [State.iobufByte_memWrite, if_neg (by omega)]

/-! ### The chunks of a store -/

/-- The number of words a list of chunks takes. -/
def chunkWords (chunks : List (Nat × Nat)) : Nat := (chunks.map Prod.fst).sum

@[simp] theorem chunkWords_nil : chunkWords [] = 0 := rfl
@[simp] theorem chunkWords_cons (c : Nat × Nat) (cs : List (Nat × Nat)) :
    chunkWords (c :: cs) = c.1 + chunkWords cs := by simp [chunkWords]

/-- A store writes IOBUF and nothing else. -/
theorem State.storeChunks_eq (s : State) (off : Nat) (chunks : List (Nat × Nat)) :
    s.storeChunks off chunks = { s with iobuf := (s.storeChunks off chunks).iobuf } := by
  induction chunks generalizing s off with
  | nil => rfl
  | cons c cs ih =>
    obtain ⟨w, v⟩ := c
    rw [State.storeChunks, ih]
    rfl

/-- A store leaves the bytes outside its words alone (40_data_movement.md R167). -/
theorem State.iobufByte_storeChunks (s : State) (off : Nat) (chunks : List (Nat × Nat)) (x : Nat)
    (h : x < 8 * off ∨ 8 * (off + chunkWords chunks) ≤ x) :
    (s.storeChunks off chunks).iobufByte x = s.iobufByte x := by
  induction chunks generalizing s off with
  | nil => rfl
  | cons c cs ih =>
    obtain ⟨w, v⟩ := c
    simp only [chunkWords_cons] at h
    rw [State.storeChunks, ih _ _ (by omega), State.iobufByte_memWrite, if_neg (by omega)]

/-- A store inside IOBUF keeps the canonical form. -/
theorem State.wf_storeChunks (s : State) (off : Nat) (chunks : List (Nat × Nat))
    (h : off + chunkWords chunks ≤ 1024) (hm : Memory.wf s.iobuf = true) :
    Memory.wf (s.storeChunks off chunks).iobuf = true := by
  induction chunks generalizing s off with
  | nil => exact hm
  | cons c cs ih =>
    obtain ⟨w, v⟩ := c
    simp only [chunkWords_cons] at h
    rw [State.storeChunks]
    exact ih _ _ (by omega) (Memory.wf_writeN v (by simp only [iobufBytes]; omega) hm)

end Sys2Proof.Machine
end

