-- ==== Sys2Proof/Laws/Ops.lean ====
section
/-!
SUPPORT. What each shared operation can do, said once: the checks, the sources, the end of a command,
what its commit leaves, the turns of the schedule, and the per-type functions on admitted tags.
-/

namespace Sys2Proof.Machine

open Config

/-! ### Checks and sources -/

@[simp] theorem check_true (c : FaultCode) : check true c = .ok () := rfl
@[simp] theorem check_false (c : FaultCode) : check false c = .error c := rfl

theorem check_eq_ok {b : Bool} {c : FaultCode} : check b c = .ok () ↔ b = true := by
  cases b <;> simp [check]

theorem check_eq_error {b : Bool} {c c' : FaultCode} : check b c = .error c' ↔ b = false ∧ c = c' := by
  cases b <;> simp [check]

/-- A source is read exactly when its tag is a required one and not EMPTY (60_exceptions.md R425). -/
theorem source_eq_ok {s : State} {r : Reg} {required : List TCode} {x : Value} :
    source s r required = .ok x ↔
      s.reg r = x ∧ tagOf (s.reg r) ≠ .empty ∧ tagOf (s.reg r) ∈ required := by
  unfold source
  by_cases h1 : tagOf (s.reg r) = .empty
  · simp [h1]
  · by_cases h2 : tagOf (s.reg r) ∈ required <;> simp [h1, h2]

/-- The faults of a source (60_exceptions.md R425 step 6). -/
theorem source_eq_error {s : State} {r : Reg} {required : List TCode} {c : FaultCode} :
    source s r required = .error c ↔
      (tagOf (s.reg r) = .empty ∧ c = .emptyOperand) ∨
      (tagOf (s.reg r) ≠ .empty ∧ tagOf (s.reg r) ∉ required ∧ c = .typeMismatch) := by
  unfold source
  by_cases h1 : tagOf (s.reg r) = .empty
  · simp [h1, eq_comm]
  · by_cases h2 : tagOf (s.reg r) ∈ required <;> simp [h1, h2, eq_comm]

/-- A source of the one required tag. -/
theorem source_of_tag {s : State} {r : Reg} {t : TCode} (h : tagOf (s.reg r) = t) (ht : t ≠ .empty) :
    source s r [t] = .ok (s.reg r) := by
  rw [source_eq_ok]
  exact ⟨rfl, by rw [h]; exact ht, by simp [h]⟩

/-! ### The values of a tag -/

theorem tagOf_eq_bool {x : Value} : tagOf x = .bool ↔ ∃ b, x = .bool b := by cases x <;> simp [tagOf]
theorem tagOf_eq_fr {x : Value} : tagOf x = .fr ↔ ∃ m, x = .fr m := by cases x <;> simp [tagOf]
theorem tagOf_eq_fq {x : Value} : tagOf x = .fq ↔ ∃ m, x = .fq m := by cases x <;> simp [tagOf]
theorem tagOf_eq_fq2 {x : Value} : tagOf x = .fq2 ↔ ∃ a, x = .fq2 a := by cases x <;> simp [tagOf]
theorem tagOf_eq_fq6 {x : Value} : tagOf x = .fq6 ↔ ∃ a, x = .fq6 a := by cases x <;> simp [tagOf]
theorem tagOf_eq_fq12 {x : Value} : tagOf x = .fq12 ↔ ∃ a, x = .fq12 a := by cases x <;> simp [tagOf]
theorem tagOf_eq_g1a {x : Value} : tagOf x = .g1a ↔ ∃ p, x = .g1a p := by cases x <;> simp [tagOf]
theorem tagOf_eq_g1p {x : Value} : tagOf x = .g1p ↔ ∃ p, x = .g1p p := by cases x <;> simp [tagOf]
theorem tagOf_eq_g2a {x : Value} : tagOf x = .g2a ↔ ∃ p, x = .g2a p := by cases x <;> simp [tagOf]
theorem tagOf_eq_g2p {x : Value} : tagOf x = .g2p ↔ ∃ p, x = .g2p p := by cases x <;> simp [tagOf]
theorem tagOf_eq_eda {x : Value} : tagOf x = .eda ↔ ∃ p, x = .eda p := by cases x <;> simp [tagOf]
theorem tagOf_eq_ede {x : Value} : tagOf x = .ede ↔ ∃ p, x = .ede p := by cases x <;> simp [tagOf]

theorem tagOf_eq_empty {x : Value} : tagOf x = .empty ↔ x = .empty := by cases x <;> simp [tagOf]

/-- The values of a field type (30_encoding.md R127). -/
theorem tagOf_mem_fieldTypes {x : Value} (h : tagOf x ∈ fieldTypes) :
    (∃ m, x = .fr m) ∨ (∃ m, x = .fq m) ∨ (∃ a, x = .fq2 a) ∨ (∃ a, x = .fq6 a) ∨ ∃ a, x = .fq12 a := by
  cases x <;> simp_all [tagOf, fieldTypes]

/-- The values of a point type (30_encoding.md R127). -/
theorem tagOf_mem_pointTypes {x : Value} (h : tagOf x ∈ pointTypes) :
    (∃ p, x = .g1a p) ∨ (∃ p, x = .g1p p) ∨ (∃ p, x = .g2a p) ∨ (∃ p, x = .g2p p) ∨
      (∃ p, x = .eda p) ∨ ∃ p, x = .ede p := by
  cases x <;> simp_all [tagOf, pointTypes]

/-! ### The per-type functions on admitted tags -/

theorem fieldBinary_ok (P : ParamStore) (op : (K : Type) → FieldOps K → K → K → K) {x y : Value}
    (hx : tagOf x ∈ fieldTypes) (hy : tagOf y = tagOf x) :
    ∃ v, fieldBinary P op x y = .ok v ∧ tagOf v = tagOf x := by
  cases x <;> simp [tagOf, fieldTypes] at hx <;> cases y <;> simp [tagOf] at hy <;>
    exact ⟨_, rfl, rfl⟩

theorem fieldUnary_ok (P : ParamStore) (op : (K : Type) → FieldOps K → K → K) {x : Value}
    (hx : tagOf x ∈ fieldTypes) : ∃ v, fieldUnary P op x = .ok v ∧ tagOf v = tagOf x := by
  cases x <;> simp [tagOf, fieldTypes] at hx <;> exact ⟨_, rfl, rfl⟩

theorem fieldInverse_ok (P : ParamStore) {x : Value} (hx : tagOf x ∈ fieldTypes) :
    ∃ o, fieldInverse P x = .ok o ∧ ∀ v, o = some v → tagOf v = tagOf x := by
  cases x <;> simp [tagOf, fieldTypes] at hx <;>
    exact ⟨_, rfl, by intro v hv; obtain ⟨a, -, rfl⟩ := Option.map_eq_some_iff.1 hv; rfl⟩

theorem fieldTest_ok (P : ParamStore) (op : (K : Type) → FieldOps K → K → Bool) {x : Value}
    (hx : tagOf x ∈ fieldTypes) : ∃ b, fieldTest P op x = .ok b := by
  cases x <;> simp [tagOf, fieldTypes] at hx <;> exact ⟨_, rfl⟩

theorem fieldCompare_ok (P : ParamStore) (op : (K : Type) → FieldOps K → K → K → Bool) {x y : Value}
    (hx : tagOf x ∈ fieldTypes) (hy : tagOf y = tagOf x) : ∃ b, fieldCompare P op x y = .ok b := by
  cases x <;> simp [tagOf, fieldTypes] at hx <;> cases y <;> simp [tagOf] at hy <;> exact ⟨_, rfl⟩

theorem pointUnary_ok (P : ParamStore) (op : (A E : Type) → GroupOps A E → E → E) {t : TCode} {x : Value}
    (ht : t ∈ projTypes) (hx : tagOf x = t ∨ tagOf x = affOf t) :
    ∃ v, pointUnary P op t x = .ok v ∧ tagOf v = t := by
  cases t <;> simp [projTypes] at ht <;> cases x <;> simp [tagOf, affOf] at hx <;> exact ⟨_, rfl, rfl⟩

theorem pointBinary_ok (P : ParamStore) (op : (A E : Type) → GroupOps A E → E → E → E) {t : TCode}
    {x y : Value} (ht : t ∈ projTypes) (hx : tagOf x = t ∨ tagOf x = affOf t)
    (hy : tagOf y = t ∨ tagOf y = affOf t) :
    ∃ v, pointBinary P op t x y = .ok v ∧ tagOf v = t := by
  cases t <;> simp [projTypes] at ht <;> cases x <;> simp [tagOf, affOf] at hx <;>
    cases y <;> simp [tagOf, affOf] at hy <;> exact ⟨_, rfl, rfl⟩

theorem pointNegate_ok (P : ParamStore) {x : Value} (hx : tagOf x ∈ pointTypes) :
    ∃ o, pointNegate P x = .ok o ∧ ∀ v, o = some v → tagOf v = tagOf x := by
  cases x <;> simp [tagOf, pointTypes] at hx
  case g1a => exact ⟨_, rfl, by intro v hv; obtain ⟨a, -, rfl⟩ := Option.map_eq_some_iff.1 hv; rfl⟩
  case g2a => exact ⟨_, rfl, by intro v hv; obtain ⟨a, -, rfl⟩ := Option.map_eq_some_iff.1 hv; rfl⟩
  case eda => exact ⟨_, rfl, by intro v hv; obtain ⟨a, -, rfl⟩ := Option.map_eq_some_iff.1 hv; rfl⟩
  all_goals exact ⟨_, rfl, by intro v hv; cases hv; rfl⟩

theorem pointToProj_ok (P : ParamStore) {t : TCode} {x : Value} (ht : t ∈ projTypes)
    (hx : tagOf x = affOf t) : ∃ v, pointToProj P x = .ok v ∧ tagOf v = t := by
  cases t <;> simp [projTypes] at ht <;> cases x <;> simp [tagOf, affOf] at hx <;> exact ⟨_, rfl, rfl⟩

theorem pointToAff_ok (P : ParamStore) {t : TCode} {x : Value} (ht : t ∈ affTypes)
    (hx : tagOf x = projOf t) :
    ∃ o, pointToAff P x = .ok o ∧ ∀ v, o = some v → tagOf v = t := by
  cases t <;> simp [affTypes] at ht <;> cases x <;> simp [tagOf, projOf] at hx <;>
    exact ⟨_, rfl, by intro v hv; obtain ⟨a, -, rfl⟩ := Option.map_eq_some_iff.1 hv; rfl⟩

theorem pointEqual_ok (P : ParamStore) {x y : Value} (hx : tagOf x ∈ pointTypes)
    (hy : tagOf y = tagOf x) : ∃ b, pointEqual P x y = .ok b := by
  cases x <;> simp [tagOf, pointTypes] at hx <;> cases y <;> simp [tagOf] at hy <;> exact ⟨_, rfl⟩

theorem pointIsId_ok (P : ParamStore) {x : Value} (hx : tagOf x ∈ pointTypes) :
    ∃ b, pointIsId P x = .ok b := by
  cases x <;> simp [tagOf, pointTypes] at hx <;> exact ⟨_, rfl⟩

theorem pointOnCurve_ok (P : ParamStore) {x : Value} (hx : tagOf x ∈ pointTypes) :
    ∃ b, pointOnCurve P x = .ok b := by
  cases x <;> simp [tagOf, pointTypes] at hx <;> exact ⟨_, rfl⟩

theorem constValue_ok (P : ParamStore) {t : TCode} (k : BitVec 10) (ht : t ∈ allTypes) :
    ∃ v, constValue P t k = .ok v ∧ tagOf v = t := by
  cases t <;> simp [allTypes, fieldTypes, pointTypes] at ht <;> exact ⟨_, rfl, rfl⟩

/-! ### The end of a command -/

@[simp] theorem complete_ok (e : Effect) (s : State) :
    complete (.ok e) s = .next (retire (applyEffect e s)) := rfl

@[simp] theorem complete_error (c : FaultCode) (s : State) :
    complete (.error c) s = .next (takeFault c s) := rfl

/-- Everything the end of a command can be. -/
theorem complete_cases {r : Except FaultCode Effect} {s t : State} (h : complete r s = .next t) :
    (∃ e, r = .ok e ∧ t = retire (applyEffect e s)) ∨ ∃ c, r = .error c ∧ t = takeFault c s := by
  cases r with
  | ok e => left; exact ⟨e, rfl, by simpa using h.symm⟩
  | error c => right; exact ⟨c, rfl, by simpa using h.symm⟩

/-- Taking a fault is the fault entry of 60_exceptions.md R426. -/
theorem takeFault_spec (c : FaultCode) (s : State) : FaultTaken c s.inflightWord s (takeFault c s) := by
  unfold FaultTaken takeFault
  congr 2

/-- A put is a retire that wrote one register. -/
theorem puts_of_put (d : Reg) (x : Value) (s : State) :
    Puts d x s (retire (applyEffect (.put d x) s)) := by
  refine ⟨⟨rfl, rfl, rfl, rfl, rfl, rfl, rfl, rfl, rfl, rfl, rfl, rfl, rfl, rfl, rfl, rfl⟩, ?_, ?_,
    fun a => rfl, rfl, rfl⟩
  · simp [applyEffect]
  · intro r hr
    simpa [applyEffect] using State.reg_setReg_of_ne s x hr

/-- A None result is a retire with an EMPTY destination and NONE set (60_exceptions.md R432). -/
theorem givesNone_of_noneResult (d : Reg) (s : State) :
    GivesNone d s (retire (applyEffect (.noneResult d) s)) := by
  refine ⟨⟨rfl, rfl, rfl, rfl, rfl, rfl, rfl, rfl, rfl, rfl, rfl, rfl, rfl, rfl, rfl, rfl⟩, ?_, ?_,
    fun a => rfl, rfl, rfl⟩
  · simp [applyEffect]
  · intro r hr
    simpa [applyEffect] using State.reg_setReg_of_ne s .empty hr

/-- A failed decode is a retire with an EMPTY destination and DECFAIL set (60_exceptions.md R431). -/
theorem givesDecfail_of_decodeFailure (d : Reg) (s : State) :
    GivesDecfail d s (retire (applyEffect (.decodeFailure d) s)) := by
  refine ⟨⟨rfl, rfl, rfl, rfl, rfl, rfl, rfl, rfl, rfl, rfl, rfl, rfl, rfl, rfl, rfl, rfl⟩, ?_, ?_,
    fun a => rfl, rfl, rfl⟩
  · simp [applyEffect]
  · intro r hr
    simpa [applyEffect] using State.reg_setReg_of_ne s .empty hr

/-- A store is a retire that changed only the bytes of its words (40_data_movement.md R167). -/
theorem stores_of_store (off : Nat) (chunks : List (Nat × Nat)) (s : State) :
    Stores off (chunkWords chunks) s (retire (applyEffect (.store off chunks) s)) := by
  have h := State.storeChunks_eq s off chunks
  have ha : applyEffect (.store off chunks) s = s.storeChunks off chunks := rfl
  rw [ha]
  refine ⟨?_, ?_, fun a ha => State.iobufByte_storeChunks s off chunks a ha, ?_, ?_⟩
  · rw [h]
    exact ⟨rfl, rfl, rfl, rfl, rfl, rfl, rfl, rfl, rfl, rfl, rfl, rfl, rfl, rfl, rfl, rfl⟩
  · intro r; rw [h]; rfl
  · rw [h]; rfl
  · rw [h]; rfl

/-! ### The turns of the schedule -/

theorem step_of_no_inputs {s : State} (h : s.inputs = []) : step s = engineStep s := by
  simp [step, turn, h]

theorem step_of_engine_turn {s : State} {rest : List Input} (h : s.inputs = .engine :: rest) :
    step s = engineStep { s with inputs := rest } := by
  simp [step, turn, h, State.nextTurn]

theorem step_of_host_turn {s : State} {a : Access} {rest : List Input} (h : s.inputs = .host a :: rest) :
    step s = .next (hostAccess a { s with inputs := rest }) := by
  simp [step, turn, h, State.nextTurn]

theorem step_of_hard_reset {s : State} {rest : List Input} (h : s.inputs = .hardReset :: rest) :
    step s = .next (hardReset { s with inputs := rest }) := by
  simp [step, turn, h, State.nextTurn]

theorem engineStep_of_command {s : State} {w : Command} {i : Instr} (h : s.inflight = some w)
    (hw : decode w = .instr i) : engineStep s = exec i s := by
  simp [engineStep, h, retireStep, hw]

theorem engineStep_of_refused_word {s : State} {w : Command} {c : FaultCode} (h : s.inflight = some w)
    (hw : decode w = .fault c) : engineStep s = .next (takeFault c s) := by
  simp [engineStep, h, retireStep, hw]

theorem engineStep_of_empty_slot {s : State} (h : s.inflight = none) :
    engineStep s = .next (startStep s) := by
  simp [engineStep, h]

theorem inflightWord_of_some {s : State} {w : Command} (h : s.inflight = some w) : s.inflightWord = w := by
  simp [State.inflightWord, h]

end Sys2Proof.Machine
end

