-- ==== Sys2Proof/Laws/PerInstr.lean ====
section
/-!
SUPPORT. The fields of a packed word (30_encoding.md R121), and the per-instruction statement that the
word of a command carries the command's OP and type code (R126, R127).
-/

-- One elaboration thread, for the memory of the build.
set_option Elab.async false

namespace Sys2Proof

open Machine

/-! ### The fields of a packed word -/

theorem extract_low_of_append {m n k : Nat} (x : BitVec m) (y : BitVec n) (s : Nat) (h : s + k ≤ n) :
    (x ++ y).extractLsb' s k = y.extractLsb' s k := by
  apply BitVec.eq_of_getLsbD_eq
  intro i hi
  simp [BitVec.getLsbD_append, hi, show s + i < n by omega]

theorem extract_high_of_append {m n k : Nat} (x : BitVec m) (y : BitVec n) (s : Nat) :
    (x ++ y).extractLsb' (n + s) k = x.extractLsb' s k := by
  apply BitVec.eq_of_getLsbD_eq
  intro i hi
  simp [BitVec.getLsbD_append, hi, show ¬n + s + i < n by omega, show n + s + i - n = s + i by omega]

theorem extract_all {m : Nat} (x : BitVec m) : x.extractLsb' 0 m = x := by simp

@[simp] theorem opField_packWord (op : BitVec 6) (t d a b : BitVec 4) (x : BitVec 10) :
    opField (packWord op t d a b x) = op := by
  unfold opField packWord
  rw [show 26 = 10 + (4 + (4 + (4 + (4 + 0)))) from rfl]
  rw [extract_high_of_append, extract_high_of_append, extract_high_of_append, extract_high_of_append, extract_high_of_append, extract_all]

@[simp] theorem tField_packWord (op : BitVec 6) (t d a b : BitVec 4) (x : BitVec 10) :
    tField (packWord op t d a b x) = t := by
  unfold tField packWord
  rw [show 22 = 10 + (4 + (4 + (4 + 0))) from rfl]
  rw [extract_high_of_append, extract_high_of_append, extract_high_of_append, extract_high_of_append, extract_low_of_append _ _ _ (by omega), extract_all]

@[simp] theorem dField_packWord (op : BitVec 6) (t d a b : BitVec 4) (x : BitVec 10) :
    dField (packWord op t d a b x) = d := by
  unfold dField packWord
  rw [show 18 = 10 + (4 + (4 + 0)) from rfl]
  rw [extract_high_of_append, extract_high_of_append, extract_high_of_append, extract_low_of_append _ _ _ (by omega), extract_all]

@[simp] theorem aField_packWord (op : BitVec 6) (t d a b : BitVec 4) (x : BitVec 10) :
    aField (packWord op t d a b x) = a := by
  unfold aField packWord
  rw [show 14 = 10 + (4 + 0) from rfl]
  rw [extract_high_of_append, extract_high_of_append, extract_low_of_append _ _ _ (by omega), extract_all]

@[simp] theorem bField_packWord (op : BitVec 6) (t d a b : BitVec 4) (x : BitVec 10) :
    bField (packWord op t d a b x) = b := by
  unfold bField packWord
  refine (extract_high_of_append (k := 4) _ x 0).trans ?_
  rw [extract_low_of_append _ _ _ (by omega), extract_all]

@[simp] theorem xField_packWord (op : BitVec 6) (t d a b : BitVec 4) (x : BitVec 10) :
    xField (packWord op t d a b x) = x := by
  unfold xField packWord
  rw [extract_low_of_append _ _ _ (by omega), extract_all]

/-- C and the reserved low bits of X in format S (30_encoding.md R122). -/
@[simp] theorem cField_packWord (op : BitVec 6) (t d a b c : BitVec 4) (z : BitVec 6) :
    cField (packWord op t d a b (c ++ z)) = c := by
  unfold cField packWord
  rw [extract_low_of_append _ _ _ (by omega)]
  exact (extract_high_of_append (k := 4) c z 0).trans (extract_all c)

@[simp] theorem xLowField_packWord (op : BitVec 6) (t d a b c : BitVec 4) (z : BitVec 6) :
    xLowField (packWord op t d a b (c ++ z)) = z := by
  unfold xLowField packWord
  rw [extract_low_of_append _ _ _ (by omega), extract_low_of_append _ _ _ (by omega), extract_all]

/-- The tag table read both ways is the identity (10_state.md R32). -/
@[simp] theorem typeOfBits_typeBits (t : TCode) : typeOfBits (typeBits t) = t := by
  cases t <;> decide

@[simp] theorem typeBits_typeOfBits (b : BitVec 4) : typeBits (typeOfBits b) = b := by
  revert b; decide

/-! ### The word of a command carries its OP and type code -/

/-- The OP of each command (30_encoding.md R126). -/
def opcodeOf : Instr → BitVec 6
  | .nop => 0x00
  | .ld .. => 0x01
  | .st .. => 0x02
  | .ldm .. => 0x03
  | .stm .. => 0x04
  | .mov .. => 0x05
  | .const .. => 0x06
  | .sel .. => 0x07
  | .add .. => 0x10
  | .sub .. => 0x11
  | .dbl .. => 0x12
  | .neg .. => 0x13
  | .mul .. => 0x14
  | .sqr .. => 0x15
  | .inv .. => 0x16
  | .mred .. => 0x17
  | .eq .. => 0x18
  | .iszero .. => 0x19
  | .isone .. => 0x1A
  | .mulnr .. => 0x1B
  | .conj .. => 0x1C
  | .frob .. => 0x1D
  | .padd .. => 0x20
  | .pdbl .. => 0x21
  | .pneg .. => 0x22
  | .psmul .. => 0x23
  | .toproj .. => 0x24
  | .toaff .. => 0x25
  | .peq .. => 0x26
  | .isid .. => 0x27
  | .oncurve .. => 0x28

namespace Laws.WordOfInstr

/-- The word of a command has the command's OP in its OP field and its type in its T field. -/
def Statement (i : Instr) : Prop :=
  opField (encode i) = opcodeOf i ∧ typeOfBits (tField (encode i)) = i.typeField

theorem nop : Statement (.nop) := ⟨by decide, by decide⟩

theorem ld (t : TCode) (d : Reg) (off : BitVec 10) : Statement (.ld t d off) := by
  constructor <;> simp [encode, encodeM, opcodeOf, Instr.typeField]

theorem st (t : TCode) (d : Reg) (off : BitVec 10) : Statement (.st t d off) := by
  constructor <;> simp [encode, encodeM, opcodeOf, Instr.typeField]

theorem ldm (t : TCode) (d : Reg) (off : BitVec 10) : Statement (.ldm t d off) := by
  constructor <;> simp [encode, encodeM, opcodeOf, Instr.typeField]

theorem stm (t : TCode) (d : Reg) (off : BitVec 10) : Statement (.stm t d off) := by
  constructor <;> simp [encode, encodeM, opcodeOf, Instr.typeField]

theorem mov (t : TCode) (d a : Reg) : Statement (.mov t d a) := by
  constructor <;> simp [encode, encodeR2, opcodeOf, Instr.typeField]

theorem const (t : TCode) (d : Reg) (k : BitVec 10) : Statement (.const t d k) := by
  constructor <;> simp [encode, encodeM, opcodeOf, Instr.typeField]

theorem sel (t : TCode) (d a b c : Reg) : Statement (.sel t d a b c) := by
  constructor <;> simp [encode, opcodeOf, Instr.typeField]

theorem add (t : TCode) (d a b : Reg) : Statement (.add t d a b) := by
  constructor <;> simp [encode, encodeR3, opcodeOf, Instr.typeField]

theorem sub (t : TCode) (d a b : Reg) : Statement (.sub t d a b) := by
  constructor <;> simp [encode, encodeR3, opcodeOf, Instr.typeField]

theorem dbl (t : TCode) (d a : Reg) : Statement (.dbl t d a) := by
  constructor <;> simp [encode, encodeR2, opcodeOf, Instr.typeField]

theorem neg (t : TCode) (d a : Reg) : Statement (.neg t d a) := by
  constructor <;> simp [encode, encodeR2, opcodeOf, Instr.typeField]

theorem mul (t : TCode) (d a b : Reg) : Statement (.mul t d a b) := by
  constructor <;> simp [encode, encodeR3, opcodeOf, Instr.typeField]

theorem sqr (t : TCode) (d a : Reg) : Statement (.sqr t d a) := by
  constructor <;> simp [encode, encodeR2, opcodeOf, Instr.typeField]

theorem inv (t : TCode) (d a : Reg) : Statement (.inv t d a) := by
  constructor <;> simp [encode, encodeR2, opcodeOf, Instr.typeField]

theorem mred (t : TCode) (d a : Reg) : Statement (.mred t d a) := by
  constructor <;> simp [encode, encodeR2, opcodeOf, Instr.typeField]

theorem eq (t : TCode) (d a b : Reg) : Statement (.eq t d a b) := by
  constructor <;> simp [encode, encodeR3, opcodeOf, Instr.typeField]

theorem iszero (t : TCode) (d a : Reg) : Statement (.iszero t d a) := by
  constructor <;> simp [encode, encodeR2, opcodeOf, Instr.typeField]

theorem isone (t : TCode) (d a : Reg) : Statement (.isone t d a) := by
  constructor <;> simp [encode, encodeR2, opcodeOf, Instr.typeField]

theorem mulnr (t : TCode) (d a : Reg) : Statement (.mulnr t d a) := by
  constructor <;> simp [encode, encodeR2, opcodeOf, Instr.typeField]

theorem conj (t : TCode) (d a : Reg) : Statement (.conj t d a) := by
  constructor <;> simp [encode, encodeR2, opcodeOf, Instr.typeField]

theorem frob (t : TCode) (d a : Reg) (imm : BitVec 10) : Statement (.frob t d a imm) := by
  constructor <;> simp [encode, opcodeOf, Instr.typeField]

theorem padd (t : TCode) (d a b : Reg) : Statement (.padd t d a b) := by
  constructor <;> simp [encode, encodeR3, opcodeOf, Instr.typeField]

theorem pdbl (t : TCode) (d a : Reg) : Statement (.pdbl t d a) := by
  constructor <;> simp [encode, encodeR2, opcodeOf, Instr.typeField]

theorem pneg (t : TCode) (d a : Reg) : Statement (.pneg t d a) := by
  constructor <;> simp [encode, encodeR2, opcodeOf, Instr.typeField]

theorem psmul (t : TCode) (d a b : Reg) : Statement (.psmul t d a b) := by
  constructor <;> simp [encode, encodeR3, opcodeOf, Instr.typeField]

theorem toproj (t : TCode) (d a : Reg) : Statement (.toproj t d a) := by
  constructor <;> simp [encode, encodeR2, opcodeOf, Instr.typeField]

theorem toaff (t : TCode) (d a : Reg) : Statement (.toaff t d a) := by
  constructor <;> simp [encode, encodeR2, opcodeOf, Instr.typeField]

theorem peq (t : TCode) (d a b : Reg) : Statement (.peq t d a b) := by
  constructor <;> simp [encode, encodeR3, opcodeOf, Instr.typeField]

theorem isid (t : TCode) (d a : Reg) : Statement (.isid t d a) := by
  constructor <;> simp [encode, encodeR2, opcodeOf, Instr.typeField]

theorem oncurve (t : TCode) (d a : Reg) : Statement (.oncurve t d a) := by
  constructor <;> simp [encode, encodeR2, opcodeOf, Instr.typeField]

end Laws.WordOfInstr

end Sys2Proof
end

