-- ==== Sys2Proof/Tests/Slice0.lean ====
section
/-!
SUPPORT. The model's own tests: ill-formed commands are refused by their check, words written out from
30_encoding.md decode to their commands, single steps on small states give the spec's values, and the
hypotheses of every statement are met by a concrete state.
-/

namespace Sys2Proof.Tests

open Sys2Proof Sys2Proof.Machine Sys2Proof.Config

-- The theorems are elaborated one after another: each evaluation has a thread and a stack of its own.
set_option Elab.async false

/-! ### A small parameter set -/

/-- A conforming parameter set with small moduli: P_FR = 13, P_FQ = 7, BETA = -1, XI = 1 + 2u, B_G1 = 2,
B_G2 = 1 + u, ED_A = 1, ED_D = 2. 2^384 mod 7 = 1 and 2^256 mod 13 = 3, so FQ values are their own
Montgomery forms and FR values are held multiplied by 3. -/
def toyParams : ParamStore where
  fr := baseFieldOf 256 13 0xb13b13b13b13b13b
  fq := baseFieldOf 384 7 0x9249249249249249
  beta := 6
  xi := ⟨1, 2⟩
  bG1 := 2
  b3G1 := 6
  bG2 := ⟨1, 1⟩
  b3G2 := ⟨3, 3⟩
  edA := 3
  edD := 6
  frob6C1 := #v[⟨1, 0⟩, ⟨4, 4⟩, ⟨4, 0⟩, ⟨2, 2⟩, ⟨2, 0⟩, ⟨1, 1⟩]
  frob6C2 := #v[⟨1, 0⟩, ⟨0, 4⟩, ⟨2, 0⟩, ⟨0, 1⟩, ⟨4, 0⟩, ⟨0, 2⟩]
  frob12C1 := #v[⟨1, 0⟩, ⟨1, 2⟩, ⟨5, 0⟩, ⟨5, 3⟩, ⟨4, 0⟩, ⟨4, 1⟩, ⟨6, 0⟩, ⟨6, 5⟩, ⟨2, 0⟩, ⟨2, 4⟩, ⟨3, 0⟩, ⟨3, 6⟩]
  paramId := 0x7F

theorem toy_params_ok : paramsOk toyParams = true := by decide +kernel

/-! ### Ill-formed commands, one for each check of 60_exceptions.md R425 (steps 3 to 5) -/

theorem test_wf_refuses_type_zero : (Instr.ld .empty 1 0).wf = false := by decide
theorem test_wf_refuses_reserved_type : (Instr.mov .reserved13 1 2).wf = false := by decide
theorem test_wf_refuses_point_type_of_add : (Instr.add .g1p 0 1 2).wf = false := by decide
theorem test_wf_refuses_fq12_of_mulnr : (Instr.mulnr .fq12 1 2).wf = false := by decide
theorem test_wf_refuses_affine_type_of_padd : (Instr.padd .g1a 0 1 2).wf = false := by decide
theorem test_wf_refuses_const_two : (Instr.const .fr 0 2).wf = false := by decide
theorem test_wf_refuses_const_one_of_point : (Instr.const .ede 0 1).wf = false := by decide
theorem test_wf_refuses_frob_twelve : (Instr.frob .fq12 1 2 12).wf = false := by decide
theorem test_wf_refuses_range_past_the_end : (Instr.st .fq12 0 953).wf = false := by decide
theorem test_wf_admits_the_last_range : (Instr.st .fq12 0 952).wf = true := by decide

/-! ### Words written out from 30_encoding.md R121 and the examples of the instruction rules -/
theorem test_decode_nop : decode 0x00000000 = .instr (.nop) := by decide
theorem test_decode_ld : decode 0x04840004 = .instr (.ld .fr 1 4) := by decide
theorem test_decode_st : decode 0x09C40014 = .instr (.st .g1a 1 20) := by decide
theorem test_decode_ldm : decode 0x0C880000 = .instr (.ldm .fr 2 0) := by decide
theorem test_decode_stm : decode 0x10C40006 = .instr (.stm .fq 1 6) := by decide
theorem test_decode_mov : decode 0x14CD0000 = .instr (.mov .fq 3 4) := by decide
theorem test_decode_const : decode 0x18D40001 = .instr (.const .fq 5 1) := by decide
theorem test_decode_sel : decode 0x1C8048C0 = .instr (.sel .fr 0 1 2 3) := by decide
theorem test_decode_add : decode 0x40804800 = .instr (.add .fr 0 1 2) := by decide
theorem test_decode_sub : decode 0x44CC4800 = .instr (.sub .fq 3 1 2) := by decide
theorem test_decode_dbl : decode 0x49044000 = .instr (.dbl .fq2 1 1) := by decide
theorem test_decode_neg : decode 0x4C914000 = .instr (.neg .fr 4 5) := by decide
theorem test_decode_mul : decode 0x51080400 = .instr (.mul .fq2 2 0 1) := by decide
theorem test_decode_sqr : decode 0x54844000 = .instr (.sqr .fr 1 1) := by decide
theorem test_decode_inv : decode 0x58C8C000 = .instr (.inv .fq 2 3) := by decide
theorem test_decode_mred : decode 0x5C884000 = .instr (.mred .fr 2 1) := by decide
theorem test_decode_eq : decode 0x614C4800 = .instr (.eq .fq6 3 1 2) := by decide
theorem test_decode_iszero : decode 0x65810000 = .instr (.iszero .fq12 0 4) := by decide
theorem test_decode_isone : decode 0x6899C000 = .instr (.isone .fr 6 7) := by decide
theorem test_decode_mulnr : decode 0x6D4D0000 = .instr (.mulnr .fq6 3 4) := by decide
theorem test_decode_conj : decode 0x71958000 = .instr (.conj .fq12 5 6) := by decide
theorem test_decode_frob : decode 0x754D0002 = .instr (.frob .fq6 3 4 2) := by decide
theorem test_decode_padd : decode 0x830C4800 = .instr (.padd .ede 3 1 2) := by decide
theorem test_decode_pdbl : decode 0x86084000 = .instr (.pdbl .g1p 2 1) := by decide
theorem test_decode_pneg : decode 0x89D14000 = .instr (.pneg .g1a 4 5) := by decide
theorem test_decode_psmul : decode 0x8F084000 = .instr (.psmul .ede 2 1 0) := by decide
theorem test_decode_toproj : decode 0x92040000 = .instr (.toproj .g1p 1 0) := by decide
theorem test_decode_toaff : decode 0x95D88000 = .instr (.toaff .g1a 6 2) := by decide
theorem test_decode_peq : decode 0x9A1C8C00 = .instr (.peq .g1p 7 2 3) := by decide
theorem test_decode_isid : decode 0x9F224000 = .instr (.isid .ede 8 9) := by decide
theorem test_decode_oncurve : decode 0xA2404000 = .instr (.oncurve .g2a 0 1) := by decide
theorem test_decode_reserved_opcode : decode 0x20000001 = .fault .illegalOpcode := by decide
theorem test_decode_last_opcode : decode 0xFC000000 = .fault .illegalOpcode := by decide
theorem test_decode_reserved_nop : decode 0x00000001 = .fault .reservedField := by decide
theorem test_decode_reserved_sel : decode 0x1C8048C1 = .fault .reservedField := by decide
theorem test_decode_reserved_frob : decode 0x75848401 = .fault .reservedField := by decide
theorem test_decode_table_word : decodeTableWord 32 0x40804800 = some (.add .fr 0 1 2) := by decide

/-! ### Single steps on small states; the expected values are the examples of the rules named -/

/-- The state after an outcome; the reset state stands for a stop, which no command answers. -/
def nextOf (o : Host.Outcome State Fault Refusal) : State :=
  match o with
  | .next t => t
  | .fault _ => State.reset
  | .refused _ => State.reset

/-- A state with a command in the slot, some registers written and some IOBUF bytes. -/
def stateWith (regs : List (Reg × Value)) (io : Memory) : State :=
  regs.foldl (fun s p => s.setReg p.1 p.2)
    { State.reset with inflight := some 0x0BADCAFE, cmdCount := 7, iobuf := io }

/-- What register `d` holds after a command. -/
def regAfter (i : Instr) (d : Reg) (s : State) : Value := (nextOf (exec i s)).reg d

/-- The FR value of a canonical integer, in the default instance. -/
def frv (n : Nat) : Value := .fr (montOf defaultParams.fr n)

/-- The raw FQ coefficient of a canonical integer, in the default instance. -/
def q (n : Nat) : Fq := montOf defaultParams.fq n

/-- The FQ2 element of two canonical integers, in the default instance. -/
def q2 (a b : Nat) : Fq2 := ⟨q a, q b⟩

/-- The raw FR coefficient of a canonical integer, in the default instance. -/
def r (n : Nat) : Fr := montOf defaultParams.fr n

/-- The G1 generator's coordinates (95_test_vectors.md section 2). -/
def g1x : Nat :=
  0x17f1d3a73197d7942695638c4fa9ac0fc3688c4f9774b905a14e3a3f171bac586c55e83ff97a1aeffb3af00adb22c6bb

/-- The G1 generator's coordinates (95_test_vectors.md section 2). -/
def g1y : Nat :=
  0x08b3f481e3aaa0f1a09e30ed741d8ae4fcf5e095d5d00af600db18cb2c04b3edd03cc744a2888ae40caa232946c5e7e1

/-- NOP counts (40_data_movement.md R165). -/
theorem test_nop_counts : (nextOf (exec .nop (stateWith [] []))).cmdCount = 8 := by decide +kernel

/-- R166: words 0..3 = (5, 0, 0, 0). -/
theorem test_ld_fr_five :
    regAfter (.ld .fr 1 0) 1 (stateWith [] (Memory.writeN [] 0 32 5)) = frv 5 := by decide +kernel

/-- R166, vector M2: the modulus itself fails. -/
theorem test_ld_modulus_is_decfail :
    (nextOf (exec (.ld .fr 1 0) (stateWith [(1, frv 1)] (Memory.writeN [] 0 32 defaultPFr)))).status.decfail
      = true := by decide +kernel

/-- R167: V1 = FR 5; words 8..11 = (5, 0, 0, 0). -/
theorem test_st_fr_five :
    (nextOf (exec (.st .fr 1 8) (stateWith [(1, frv 5)] []))).memRead 64 32 = 5 := by decide +kernel

/-- R168: raw limbs (1, 0, 0, 0) are loaded unchanged. -/
theorem test_ldm_raw_one :
    regAfter (.ldm .fr 2 0) 2 (stateWith [] (Memory.writeN [] 0 32 1)) = .fr 1 := by decide +kernel

/-- R169: STM of the FR value 1 writes the limbs of ONE_FR. -/
theorem test_stm_one :
    (nextOf (exec (.stm .fr 1 0) (stateWith [(1, frv 1)] []))).memRead 0 32 =
      0x1824b159acc5056f998c4fefecbc4ff55884b7fa0003480200000001fffffffe := by decide +kernel

/-- R170. -/
theorem test_mov_copies :
    regAfter (.mov .fq 3 4) 3 (stateWith [(4, .fq 77)] []) = .fq 77 := by decide +kernel

/-- R171: V5 = FQ 1 is ONE_FQ (95_test_vectors.md section 2). -/
theorem test_const_fq_one :
    regAfter (.const .fq 5 1) 5 (stateWith [] []) =
      .fq 0x15f65ec3fa80e4935c071a97a256ec6d77ce5853705257455f48985753c758baebf4000bc40c0002760900000002fffd := by
  decide +kernel

/-- R171: the Edwards identity (0, 1, 0, 1). -/
theorem test_const_ede_identity :
    regAfter (.const .ede 2 0) 2 (stateWith [] []) = .ede ⟨0, r 1, 0, r 1⟩ := by decide +kernel

/-- R172: choice 1 selects B. -/
theorem test_sel_selects_b :
    regAfter (.sel .fr 0 1 2 3) 0 (stateWith [(1, frv 7), (2, frv 9), (3, .bool true)] []) = frv 9 := by
  decide +kernel

/-- R281: 7 + (P - 2) = 5. -/
theorem test_add_wraps :
    regAfter (.add .fr 0 1 2) 0 (stateWith [(1, frv 7), (2, frv (defaultPFr - 2))] []) = frv 5 := by
  decide +kernel

/-- R282: 1 - 2 = P - 1. -/
theorem test_sub_wraps :
    regAfter (.sub .fq 3 1 2) 3 (stateWith [(1, .fq (q 1)), (2, .fq (q 2))] []) =
      .fq (q (defaultPFq - 1)) := by decide +kernel

/-- R283: FQ2 (3, 4) doubled in place. -/
theorem test_dbl_in_place :
    regAfter (.dbl .fq2 1 1) 1 (stateWith [(1, .fq2 (q2 3 4))] []) = .fq2 (q2 6 8) := by decide +kernel

/-- R284: the negative of zero is zero, not the raw modulus. -/
theorem test_neg_zero :
    regAfter (.neg .fr 4 5) 4 (stateWith [(5, frv 0)] []) = .fr 0 := by decide +kernel

/-- R284: the negative of one. -/
theorem test_neg_one :
    regAfter (.neg .fr 4 5) 4 (stateWith [(5, frv 1)] []) = frv (defaultPFr - 1) := by decide +kernel

/-- R285: (1 + 2u)(3 + 4u) = -5 + 10u. -/
theorem test_mul_fq2 :
    regAfter (.mul .fq2 2 0 1) 2 (stateWith [(0, .fq2 (q2 1 2)), (1, .fq2 (q2 3 4))] []) =
      .fq2 (q2 (defaultPFq - 5) 10) := by decide +kernel

/-- R286: 3 squared in place. -/
theorem test_sqr_in_place :
    regAfter (.sqr .fr 1 1) 1 (stateWith [(1, frv 3)] []) = frv 9 := by decide +kernel

/-- R287: the inverse of 2 is (P + 1)/2. -/
theorem test_inv_two :
    regAfter (.inv .fr 1 0) 1 (stateWith [(0, frv 2)] []) = frv ((defaultPFr + 1) / 2) := by
  decide +kernel

/-- R287: the inverse of 0 is None. -/
theorem test_inv_zero_sets_none :
    (nextOf (exec (.inv .fq 2 3) (stateWith [(2, .fq 1), (3, .fq 0)] []))).status.none = true := by
  decide +kernel

/-- R288: MRED of the value 1 is raw 1. -/
theorem test_mred_one :
    regAfter (.mred .fr 2 1) 2 (stateWith [(1, frv 1)] []) = .fr 1 := by decide +kernel

/-- R289: equal FQ6 values give BOOL 1. -/
theorem test_eq_fq6 :
    regAfter (.eq .fq6 3 1 2) 3
      (stateWith [(1, .fq6 (one6 defaultParams)), (2, .fq6 ⟨q2 1 0, q2 0 0, q2 0 0⟩)] []) =
      .bool true := by decide +kernel

/-- R290: an FQ12 value with one nonzero coefficient is not zero. -/
theorem test_iszero_fq12 :
    regAfter (.iszero .fq12 0 4) 0
      (stateWith [(4, .fq12 ⟨zero6, ⟨zero2, zero2, q2 0 1⟩⟩)] []) = .bool false := by decide +kernel

/-- R291: the test is on the canonical value 1, not on raw 1. -/
theorem test_isone_of_raw_one :
    regAfter (.isone .fr 6 7) 6 (stateWith [(7, .fr 1)] []) = .bool false := by decide +kernel

/-- R292: (3 + 4u)(1 + u) = -1 + 7u. -/
theorem test_mulnr_fq2 :
    regAfter (.mulnr .fq2 1 2) 1 (stateWith [(2, .fq2 (q2 3 4))] []) =
      .fq2 (q2 (defaultPFq - 1) 7) := by decide +kernel

/-- R292: (a0, a1, (1, 0)) becomes ((1, 1), a0, a1). -/
theorem test_mulnr_fq6 :
    regAfter (.mulnr .fq6 3 4) 3 (stateWith [(4, .fq6 ⟨q2 8 9, q2 6 7, q2 1 0⟩)] []) =
      .fq6 ⟨q2 1 1, q2 8 9, q2 6 7⟩ := by decide +kernel

/-- R293: the conjugate of 3 + 4u. -/
theorem test_conj_fq2 :
    regAfter (.conj .fq2 1 2) 1 (stateWith [(2, .fq2 (q2 3 4))] []) =
      .fq2 (q2 3 (defaultPFq - 4)) := by decide +kernel

/-- R294: the element v under FROB #2 is FROB6_C1[2]·v. -/
theorem test_frob_fq6 :
    regAfter (.frob .fq6 3 4 2) 3 (stateWith [(4, .fq6 ⟨q2 0 0, q2 1 0, q2 0 0⟩)] []) =
      .fq6 ⟨q2 0 0,
        q2 0x5f19672fdf76ce51ba69c6076a0f77eaddb3a93be6f89688de17d813620a00022e01fffffffefffe 0,
        q2 0 0⟩ := by decide +kernel

/-- R425: FROB #12 is ILLEGAL_IMM although its operand is EMPTY. -/
theorem test_frob_twelve_faults :
    (nextOf (exec (.frob .fq12 1 2 12) (stateWith [] []))).status.faultCode = 4 := by decide +kernel

/-- R371: G + (-G) = (0, λ, 0). -/
theorem test_padd_cancels :
    regAfter (.padd .g1p 3 1 2) 3
      (stateWith [(1, .g1p ⟨q g1x, q g1y, q 1⟩), (2, .g1p ⟨q g1x, q (defaultPFq - g1y), q 1⟩)] []) =
      .g1p ⟨0, q 0x14e4b429606d02bc3c604c0410e5fc01d6093a00bb3e2bc9395952af0b6a0dbd599a8782a1bea48a2aa4d8e1b1df7ca5, 0⟩ := by
  decide +kernel

/-- R372: doubling the Edwards identity gives (0, -1, 0, -1). -/
theorem test_pdbl_ede_identity :
    regAfter (.pdbl .ede 2 1) 2 (stateWith [(1, .eda ⟨0, r 1⟩)] []) =
      .ede ⟨0, r (defaultPFr - 1), 0, r (defaultPFr - 1)⟩ := by decide +kernel

/-- R372: 2G, the representative of 95_test_vectors.md. -/
theorem test_pdbl_generator :
    regAfter (.pdbl .g1p 2 1) 2 (stateWith [(1, .g1a ⟨q g1x, q g1y, false⟩)] []) = .g1p
      ⟨q 0x05dff4ac6726c6cb9b6d4dac3f33e92c062e48a6104cc52f6e7f23d4350c60bd7803e16723f9f1478a13c2b29f4325ad,
       q 0x14e4b429606d02bc3c604c0410e5fc01d6093a00bb3e2bc9395952af0b6a0dbd599a8782a1bea48a2aa4d8e1b1df7ca5,
       q 0x0430df56ea4aba6928180e61b1f2cb8f962f5650798fdf279a55bee62edcdb27c04c720ae01952ac770553ef06aadf22⟩ := by
  decide +kernel

/-- R373: PNEG of an affine identity is None. -/
theorem test_pneg_affine_identity :
    regAfter (.pneg .g1a 4 5) 4 (stateWith [(4, frv 1), (5, .g1a ⟨0, q 1, true⟩)] []) = .empty := by
  decide +kernel

/-- R373: an Edwards point is negated in X and T. -/
theorem test_pneg_ede :
    regAfter (.pneg .ede 4 5) 4 (stateWith [(5, .ede ⟨r 2, r 3, r 6, r 1⟩)] []) =
      .ede ⟨r (defaultPFr - 2), r 3, r (defaultPFr - 6), r 1⟩ := by decide +kernel

/-- R404: PSMUL by 0 of an Edwards point is (0, -1, 0, -1). -/
theorem test_psmul_zero :
    regAfter (.psmul .ede 2 1 0) 2 (stateWith [(0, frv 0), (1, .ede ⟨0, r 1, 0, r 1⟩)] []) =
      .ede ⟨0, r (defaultPFr - 1), 0, r (defaultPFr - 1)⟩ := by decide +kernel

/-- R374: a finite affine point gets Z = 1. -/
theorem test_toproj_generator :
    regAfter (.toproj .g1p 1 0) 1 (stateWith [(0, .g1a ⟨q g1x, q g1y, false⟩)] []) =
      .g1p ⟨q g1x, q g1y, q 1⟩ := by decide +kernel

/-- R375: a projective point with Z = 0 gives the affine identity. -/
theorem test_toaff_identity :
    regAfter (.toaff .g1a 6 2) 6 (stateWith [(2, .g1p ⟨0, q 5, 0⟩)] []) = .g1a ⟨0, q 1, true⟩ := by
  decide +kernel

/-- R375, vector M16: 7·(x, y, 1) has the affine form of the generator. -/
theorem test_toaff_generator :
    regAfter (.toaff .g1a 6 2) 6
      (stateWith [(2, .g1p ⟨q (7 * g1x % defaultPFq), q (7 * g1y % defaultPFq), q 7⟩)] []) =
      .g1a ⟨q g1x, q g1y, false⟩ := by decide +kernel

/-- R376: (0, 1, 0, 1) equals (0, -1, 0, -1). -/
theorem test_peq_identities :
    regAfter (.peq .ede 7 2 3) 7 (stateWith [(2, .ede ⟨0, r 1, 0, r 1⟩),
      (3, .ede ⟨0, r (defaultPFr - 1), 0, r (defaultPFr - 1)⟩)] []) = .bool true := by decide +kernel

/-- R377: (0, -1, 0, -1) is the identity. -/
theorem test_isid_identity :
    regAfter (.isid .ede 8 9) 8
      (stateWith [(9, .ede ⟨0, r (defaultPFr - 1), 0, r (defaultPFr - 1)⟩)] []) = .bool true := by
  decide +kernel

/-- R377: (0, -1, 0, 1), the point of order 2, is not. -/
theorem test_isid_order_two :
    regAfter (.isid .ede 8 9) 8 (stateWith [(9, .ede ⟨0, r (defaultPFr - 1), 0, r 1⟩)] []) =
      .bool false := by decide +kernel

/-- R378: the G2 generator (95_test_vectors.md section 2) is on its curve. -/
theorem test_oncurve_g2_generator :
    regAfter (.oncurve .g2a 0 1) 0 (stateWith [(1, .g2a ⟨
      q2 0x024aa2b2f08f0a91260805272dc51051c6e47ad4fa403b02b4510b647ae3d1770bac0326a805bbefd48056c8c121bdb8
        0x13e02b6052719f607dacd3a088274f65596bd0d09920b61ab5da61bbdc7f5049334cf11213945d57e5ac7d055d042b7e,
      q2 0x0ce5d527727d6e118cc9cdc6da2e351aadfd9baa8cbdd3a76d429a695160d12c923ac9cc3baca289e193548608b82801
        0x0606c4a02ea734cc32acd2b02bc28b99cb3e287e85a763af267492ab572e99ab3f370d275cec1da1aaa9075ff05f79be,
      false⟩)] []) = .bool true := by decide +kernel

/-- R425: SEL with A of the wrong tag and B EMPTY is TYPE_MISMATCH, from A. -/
theorem test_sel_checks_a_first :
    (nextOf (exec (.sel .fr 0 1 2 3) (stateWith [(1, .fq 1)] []))).status.faultCode = 7 := by
  decide +kernel

/-- R426: FAULT_INFO holds the command's index and word. -/
theorem test_fault_info :
    (nextOf (exec (.add .fr 0 1 2) (stateWith [] []))).faultInfo = 0x000000070BADCAFE := by
  decide +kernel

/-- The next step runs the word placed by `withFetchWord`. -/
theorem test_fetch_word_runs_next :
    (nextOf (step (State.reset.withFetchWord 32 0x18440001))).reg 1 = .bool true := by decide +kernel

/-- Vector H11: a reserved opcode in the slot faults, STATUS = 0x102. -/
theorem test_reserved_opcode_status :
    (nextOf (step (State.reset.withFetchWord 32 0x20000000))).statusWord = 0x102 := by decide +kernel

/-- Vector H2: CFG of the default instance. -/
theorem test_cfg_word : State.reset.cfgWord = 0x0001060404001010 := by decide +kernel

/-! ### The small parameter set is conforming -/

theorem toy_fq_cases {a : Fq} (h : canonical toyParams.fq a = true) :
    ∃ n : Fin 7, a = BitVec.ofNat 384 n.val := by
  have hp : toyParams.fq.p.toNat = 7 := by decide +kernel
  have h7 : a.toNat < 7 := by simpa [canonical, hp] using h
  exact ⟨⟨a.toNat, h7⟩, by simp⟩

theorem toy_fr_cases {a : Fr} (h : canonical toyParams.fr a = true) :
    ∃ n : Fin 13, a = BitVec.ofNat 256 n.val := by
  have hp : toyParams.fr.p.toNat = 13 := by decide +kernel
  have h13 : a.toNat < 13 := by simpa [canonical, hp] using h
  exact ⟨⟨a.toNat, h13⟩, by simp⟩

theorem toy_fq2_cases {a : Fq2} (h : canonical2 toyParams a = true) :
    ∃ m n : Fin 7, a = ⟨BitVec.ofNat 384 m.val, BitVec.ofNat 384 n.val⟩ := by
  obtain ⟨x, y⟩ := a
  simp only [canonical2, Bool.and_eq_true] at h
  obtain ⟨m, rfl⟩ := toy_fq_cases h.1
  obtain ⟨n, rfl⟩ := toy_fq_cases h.2
  exact ⟨m, n, rfl⟩

theorem toy_xi_not_square : ∀ m n : Fin 7,
    (fq2Ops toyParams).mul ⟨BitVec.ofNat 384 m.val, BitVec.ofNat 384 n.val⟩
      ⟨BitVec.ofNat 384 m.val, BitVec.ofNat 384 n.val⟩ ≠ toyParams.xi := by decide +kernel

/-- The cubes of the FQ2 elements of the small instance are none of XI and -B_G2. -/
theorem toy_not_cubes : ∀ m n : Fin 7,
    let a : Fq2 := ⟨BitVec.ofNat 384 m.val, BitVec.ofNat 384 n.val⟩
    let c := (fq2Ops toyParams).mul ((fq2Ops toyParams).mul a a) a
    c ≠ toyParams.xi ∧ c ≠ neg2 toyParams toyParams.bG2 := by decide +kernel

theorem toy_fq_powers : ∀ n : Fin 7,
    let a : Fq := BitVec.ofNat 384 n.val
    let b := (fqOps toyParams).mul a a
    b ≠ toyParams.beta ∧ (fqOps toyParams).mul b a ≠ fneg toyParams.fq toyParams.bG1 := by decide +kernel

theorem toy_d_not_square : ∀ n : Fin 13,
    (frOps toyParams).mul (BitVec.ofNat 256 n.val) (BitVec.ofNat 256 n.val) ≠ toyParams.edD := by
  decide +kernel

theorem toy_residues : NonResidues toyParams where
  beta a ha := by
    obtain ⟨n, rfl⟩ := toy_fq_cases ha
    exact (toy_fq_powers n).1
  xiSquare a ha := by
    obtain ⟨m, n, rfl⟩ := toy_fq2_cases ha
    exact toy_xi_not_square m n
  xiCube a ha := by
    obtain ⟨m, n, rfl⟩ := toy_fq2_cases ha
    exact (toy_not_cubes m n).1

theorem powOf_add_period {K : Type} (F : FieldOps K) (a : K) (k : Nat) (h : powOf F a k = F.one)
    (n : Nat) : powOf F a (n + k) = powOf F a n := by
  induction n with
  | zero => simpa [powOf] using h
  | succ n ih => rw [Nat.add_right_comm]; simp [powOf, ih]

theorem powOf_mod {K : Type} (F : FieldOps K) (a : K) (k : Nat) (h : powOf F a k = F.one) (n : Nat) :
    powOf F a n = powOf F a (n % k) := by
  have key : ∀ c r, powOf F a (r + k * c) = powOf F a r := by
    intro c
    induction c with
    | zero => simp
    | succ c ih => intro r; rw [Nat.mul_succ, ← Nat.add_assoc, powOf_add_period F a k h, ih]
  conv_lhs => rw [← Nat.mod_add_div n k]
  exact key _ _

theorem toy_xi_period : powOf (fq2Ops toyParams) toyParams.xi 48 = (fq2Ops toyParams).one := by
  decide +kernel

theorem toy_tables_reduced :
    (∀ j : Fin 6, toyParams.frob6C1[j] =
      powOf (fq2Ops toyParams) toyParams.xi ((7 ^ j.val - 1) / 3 % 48)) ∧
    (∀ j : Fin 6, toyParams.frob6C2[j] =
      powOf (fq2Ops toyParams) toyParams.xi ((2 * 7 ^ j.val - 2) / 3 % 48)) ∧
    (∀ j : Fin 12, toyParams.frob12C1[j] =
      powOf (fq2Ops toyParams) toyParams.xi ((7 ^ j.val - 1) / 6 % 48)) := by decide +kernel

theorem toy_tables : FrobeniusTables toyParams := by
  have hp : toyParams.fq.p.toNat = 7 := by decide +kernel
  constructor
  · intro j; rw [powOf_mod _ _ 48 toy_xi_period, hp]; exact toy_tables_reduced.1 j
  · intro j; rw [powOf_mod _ _ 48 toy_xi_period, hp]; exact toy_tables_reduced.2.1 j
  · intro j; rw [powOf_mod _ _ 48 toy_xi_period, hp]; exact toy_tables_reduced.2.2 j

theorem toy_edwards : EdwardsComplete toyParams where
  aSquare := ⟨3, by decide +kernel⟩
  dNonSquare a ha := by
    obtain ⟨n, rfl⟩ := toy_fr_cases ha
    exact toy_d_not_square n

/-- The small parameter set meets every premise on parameters. -/
theorem toy_conforming : Conforming toyParams where
  ok := toy_params_ok
  primeFr := by
    have hp : toyParams.fr.p.toNat = 13 := by decide +kernel
    rw [hp]; norm_num
  primeFq := by
    have hp : toyParams.fq.p.toNat = 7 := by decide +kernel
    rw [hp]; norm_num
  residues := toy_residues
  tables := toy_tables
  edwards := toy_edwards
  g1 a ha := by
    obtain ⟨n, rfl⟩ := toy_fq_cases ha
    exact (toy_fq_powers n).2
  g2 a ha := by
    obtain ⟨m, n, rfl⟩ := toy_fq2_cases ha
    exact (toy_not_cubes m n).2

/-! ### The hypotheses of the statements are met -/

/-- A state over the small instance whose registers hold a value of every type, each point on its
curve: V0 BOOL, V1 FR 1, V2 FQ 5, V3 FQ2, V4 FQ6, V5 FQ12, V6 G1A, V7 G1P, V8 G2A, V9 G2P, V10 EDA, V11
EDE, V12 BOOL 0, V13 FR 0, V14 the flagged identity of G1, V15 EMPTY. -/
def full : State :=
  { State.reset with
    params := toyParams
    v := #v[.bool true, .fr 3, .fq 5, .fq2 ⟨3, 4⟩, .fq6 ⟨⟨1, 2⟩, ⟨3, 4⟩, ⟨5, 6⟩⟩,
      .fq12 ⟨⟨⟨1, 2⟩, ⟨3, 4⟩, ⟨5, 6⟩⟩, ⟨⟨0, 1⟩, ⟨2, 3⟩, ⟨4, 5⟩⟩⟩, .g1a ⟨3, 1, false⟩, .g1p ⟨6, 2, 2⟩,
      .g2a ⟨⟨0, 1⟩, ⟨1, 0⟩, false⟩, .g2p ⟨⟨0, 1⟩, ⟨1, 0⟩, ⟨1, 0⟩⟩, .eda ⟨12, 12⟩, .ede ⟨12, 12, 9, 3⟩,
      .bool false, .fr 0, .g1a ⟨0, 1, true⟩, .empty] }

/-- `full` with a schedule. -/
def fullWith (inputs : List Input) : State := { full with inputs := inputs }

/-- A faulted `full` with a schedule. -/
def faulted (inputs : List Input) : State :=
  { full with inputs := inputs, status := { Status.reset with fault := true, faultCode := 6 } }

/-- `full` with little-endian integers written to IOBUF: (byte offset, bytes, integer). -/
def fullIobuf (writes : List (Nat × Nat × Nat)) : State :=
  { full with iobuf := writes.foldl (fun m c => Memory.writeN m c.1 c.2.1 c.2.2) [] }

/-- An outcome is a next state. -/
def isNext (o : Host.Outcome State Fault Refusal) : Bool :=
  match o with
  | .next _ => true
  | .fault _ => false
  | .refused _ => false

theorem eq_next_of_isNext {o : Host.Outcome State Fault Refusal} (h : isNext o = true) :
    o = .next (nextOf o) := by
  cases o <;> simp_all [isNext, nextOf]

theorem full_good : StateInv full where
  params := toy_params_ok
  values := by decide +kernel
  memory := by decide +kernel
  queue := by decide +kernel
  faultedEmpty := by decide +kernel
  noFaultCode := by decide +kernel
  aFaultCode := by decide +kernel

theorem faulted_good (inputs : List Input) : StateInv (faulted inputs) where
  params := toy_params_ok
  values := full_good.values
  memory := full_good.memory
  queue := full_good.queue
  faultedEmpty := fun _ => ⟨rfl, rfl⟩
  noFaultCode := by intro h; cases h
  aFaultCode := by
    intro _
    show 1 ≤ (6 : BitVec 8).toNat ∧ (6 : BitVec 8).toNat ≤ 7
    decide

theorem full_points : PointsOk full := by
  have h : ∀ r : Reg, (match pointOnCurve full.params (full.reg r) with
      | .ok b => b
      | .error _ => true) = true := by decide +kernel
  intro r hr
  have := h r
  rw [hr] at this
  cases this

/-- A reader for the values of `full`. -/
theorem full_values : ∀ r : Reg, valueOk full.params (full.reg r) = true := full_good.values

theorem witness_EncodeOfDecode : decode 0x1C8048C0 = .instr (.sel .fr 0 1 2 3) := by decide

/-- Both ends of every range of reserved opcodes, and one reserved bit of every format. -/
theorem witness_ReservedWordsFault :
    ([0x20000000, 0x3C000000, 0x78000000, 0x7C000000, 0xA4000000, 0xFFFFFFFF] : List Command).all
      (fun w => (reservedBits (opField w).toNat).isNone) = true ∧
    (reservedBits (opField 0x00000001).toNat = some 0x03FFFFFF ∧ 0x00000001 &&& (0x03FFFFFF : Command) ≠ 0) ∧
    (reservedBits (opField 0x04820004).toNat = some 0x0003FC00 ∧ 0x04820004 &&& (0x0003FC00 : Command) ≠ 0) ∧
    (reservedBits (opField 0x1C8048C1).toNat = some 0x0000003F ∧ 0x1C8048C1 &&& (0x0000003F : Command) ≠ 0) ∧
    (reservedBits (opField 0x14CD2000).toNat = some 0x00003FFF ∧ 0x14CD2000 &&& (0x00003FFF : Command) ≠ 0) ∧
    (reservedBits (opField 0x40804A00).toNat = some 0x000003FF ∧ 0x40804A00 &&& (0x000003FF : Command) ≠ 0) ∧
    (reservedBits (opField 0x75848401).toNat = some 0x00003C00 ∧ 0x75848401 &&& (0x00003C00 : Command) ≠ 0) ∧
    (reservedBits (opField 0x1C8048C0).toNat = some 0x0000003F ∧ 0x1C8048C0 &&& (0x0000003F : Command) = 0) ∧
    ({ fullWith [.engine] with inflight := some 0x20000000 } : State).inputs = .engine :: [] := by decide +kernel

theorem witness_StepRunsDecodedCommand :
    ({ full with inflight := some 0x40804800 } : State).inflight = some 0x40804800 ∧
    decode 0x40804800 = .instr (.add .fr 0 1 2) ∧ full.inputs = [] ∧
    (fullWith [.engine]).inputs = .engine :: [] ∧
    ({ full with fifo := [0, 1] } : State).fifo = 0 :: [1] ∧ full.inflight = none ∧
    full.status.fault = false ∧ full.fifo = [] ∧ (faulted []).status.fault = true ∧
    ({ fullWith [.engine] with fifo := [0, 1] } : State).inflight = none := by decide +kernel

/-- Sixteen queued NOPs and one in flight: 33 steps, no fault, all counted. -/
theorem witness_AcceptedCommandsFinish :
    let s : State := { full with inflight := some 0, fifo := List.replicate 16 0 }
    s.inputs = [] ∧ s.qcount = 16 ∧ (nextOf (Sys2Proof.core.run 33 s)).status.fault = false ∧
      (nextOf (Sys2Proof.core.run 33 s)).cmdCount = 17 := by decide +kernel

/-- Each fault of the check procedure is met by some word, and so is none. -/
theorem witness_FirstFailingCheckFaults :
    wordFault full 0x20000000 = some .illegalOpcode ∧ wordFault full 0x00000001 = some .reservedField ∧
    wordFault full 0x40000000 = some .illegalType ∧ wordFault full 0x18840002 = some .illegalImm ∧
    wordFault full 0x048403FD = some .iobufRange ∧
    wordFault full (encode (.mov .fr 0 15)) = some .emptyOperand ∧
    wordFault full (encode (.mov .fr 0 2)) = some .typeMismatch ∧
    wordFault full (encode (.ld .fr 1 1020)) = none ∧
    (decode 0x18840002 = .instr (.const .fr 1 2) ∧ TCode.fr ∈ allTypes ∧ 1 < (2 : BitVec 10).toNat) ∧
    (decode (encode (.const .ede 1 1)) = .instr (.const .ede 1 1) ∧ TCode.ede ∈ pointTypes) ∧
    (decode (encode (.frob .fq2 1 3 12)) = .instr (.frob .fq2 1 3 12) ∧ 11 < (12 : BitVec 10).toNat) ∧
    (decode (encode (.ld .g1a 1 1012)) = .instr (.ld .g1a 1 1012) ∧ (TCode.g1a, 13) ∈ valueSizes ∧
      1024 < (1012 : BitVec 10).toNat + 13) ∧
    (decode (encode (.stm .fr 1 1021)) = .instr (.stm .fr 1 1021) ∧ (TCode.fr, 4) ∈ valueSizes ∧
      TCode.fr ∈ fieldTypes ∧ 1024 < (1021 : BitVec 10).toNat + 4) ∧
    ({ fullWith [.engine] with inflight := some 0 } : State).inputs = .engine :: [] := by decide +kernel

/-- A command of every opcode passes the checks in `full`. -/
theorem witness_FaultFreeCommandRetires :
    ∀ i ∈ ([.nop, .ld .fq12 1 952, .st .fr 1 1020, .ldm .fq 1 0, .stm .fq2 3 1012, .mov .fq6 0 4,
      .const .ede 0 0, .const .fr 0 1, .sel .fr 0 1 13 12, .add .fr 0 1 13, .sub .fq 0 2 2, .dbl .fq2 0 3,
      .neg .fq6 0 4, .mul .fq12 0 5 5, .sqr .fr 0 1, .inv .fq 0 2, .mred .fr 0 1, .eq .fr 0 1 13,
      .iszero .fq2 0 3, .isone .fr 0 1, .mulnr .fq6 0 4, .conj .fq12 0 5, .frob .fq12 0 5 11,
      .padd .g1p 0 6 7, .pdbl .g2p 0 8, .pneg .eda 0 10, .psmul .ede 0 11 1, .toproj .g1p 0 6,
      .toaff .eda 0 11, .peq .g2a 0 8 8, .isid .g1a 0 14, .oncurve .ede 0 11] : List Instr),
      faultOf full i = none := by decide +kernel

/-- CLRF in a faulted and in a fault-free state, and a write that holds the enable bits alone. -/
theorem witness_ClearFaultReturns :
    (0x102 : Word).getLsbD 8 = true ∧ (0x102 : Word).getLsbD 9 = false ∧
    StateInv (faulted [.host ⟨.write, 0x0010, .b8, 0x102⟩]) ∧
    (faulted [.host ⟨.write, 0x0010, .b8, 0x102⟩]).status.fault = true ∧
    full.status.fault = false ∧ (0x3 : Word).getLsbD 8 = false ∧ (0x3 : Word).getLsbD 9 = false :=
  ⟨by decide, by decide, faulted_good _, rfl, rfl, by decide, by decide⟩

theorem witness_NopCountsAndNothingElse : opField 0x00000000 = 0 ∧
    opField 0x03FFFFFF = 0 ∧ (0x03FFFFFF : Command) ≠ 0 ∧
    ({ fullWith [.engine] with inflight := some 0x03FFFFFF } : State).inputs = .engine :: [] := by
  decide +kernel

/-- BOOL words 0, 1 and 2 in the last word; an FR range that holds P_FR - 1 and one that holds P_FR, at the last range. -/
theorem witness_LoadIsCanonicalDecode :
    TCode.fr ∈ fieldTypes ∧ (1020 : BitVec 10).toNat + wordsOf .fr ≤ 1024 ∧
    (1023 : BitVec 10).toNat + 1 ≤ 1024 ∧
    (fullIobuf [(8184, 8, 0)]).iobufWord 1023 = 0 ∧ (fullIobuf [(8184, 8, 1)]).iobufWord 1023 = 1 ∧
    2 ≤ (fullIobuf [(8184, 8, 2)]).iobufWord 1023 ∧
    (∀ v ∈ loadedCoeffs (fullIobuf [(8160, 32, 12)]) .fr 1020, v < modulusOf toyParams .fr) ∧
    (∃ v ∈ loadedCoeffs (fullIobuf [(8160, 32, 13)]) .fr 1020, modulusOf toyParams .fr ≤ v) ∧
    paramsOk (fullIobuf []).params = true := by decide +kernel

/-- Flag words 0, 1 and 2 of a G1A range; coordinates on the curve, off it, and one at the modulus. -/
theorem witness_LoadPointChecksFlagRangeAndCurve :
    TCode.g1a ∈ pointTypes ∧ (1011 : BitVec 10).toNat + wordsOf .g1a ≤ 1024 ∧
    loadedFlag (fullIobuf [(8088, 104, 1 <<< 768)]) .g1a 1011 = 1 ∧
    2 ≤ loadedFlag (fullIobuf [(8088, 104, 2 <<< 768)]) .g1a 1011 ∧
    loadedFlag (fullIobuf [(8088, 104, 3 + 1 <<< 384)]) .g1a 1011 = 0 ∧
    loadedCoeffs (fullIobuf [(8088, 104, 3 + 1 <<< 384)]) .g1a 1011 = [3, 1] ∧
    loadedCoeffs (fullIobuf [(8088, 104, 3 + 2 <<< 384)]) .g1a 1011 = [3, 2] ∧
    loadedCoeffs (fullIobuf [(8088, 104, 7 + 2 <<< 384)]) .g1a 1011 = [7, 2] ∧
    modulusOf toyParams .g1a = 7 ∧
    pointOnCurve toyParams (.g1a ⟨3, 1, false⟩) = pure true ∧
    pointOnCurve toyParams (.g1a ⟨3, 2, false⟩) = pure false := by
  refine ⟨?_, ?_, ?_, ?_, ?_, ?_, ?_, ?_, ?_, ?_, ?_⟩
  all_goals decide +kernel

/-- The store statements, at the last range of IOBUF. -/
theorem witness_StoreWritesCanonicalLayout :
    paramsOk full.params = true ∧ TCode.g1a ∈ allTypes ∧
    (1011 : BitVec 10).toNat + wordsOf .g1a ≤ 1024 ∧ tagOf (full.reg 14) = .g1a ∧
    valueOk full.params (full.reg 14) = true ∧ flagOf (full.reg 14) = some true := by decide +kernel

theorem witness_StoreThenLoadReturnsValue :
    paramsOk full.params = true ∧ TCode.ede ∈ allTypes ∧
    (1008 : BitVec 10).toNat + wordsOf .ede ≤ 1024 ∧ tagOf (full.reg 11) = .ede ∧
    valueOk full.params (full.reg 11) = true ∧ pointOnCurve full.params (full.reg 11) ≠ .ok false :=
  ⟨toy_params_ok, by decide, by decide, by decide +kernel, full_values 11, full_points 11⟩

theorem witness_RawLoadAndStoreKeepLimbs :
    paramsOk full.params = true ∧ TCode.fq ∈ fieldTypes ∧
    (1018 : BitVec 10).toNat + wordsOf .fq ≤ 1024 ∧ tagOf (full.reg 2) = .fq ∧
    (∀ v ∈ loadedCoeffs (fullIobuf [(8144, 48, 6)]) .fq 1018, v < modulusOf toyParams .fq) ∧
    (∃ v ∈ loadedCoeffs (fullIobuf [(8144, 48, 7)]) .fq 1018, modulusOf toyParams .fq ≤ v) := by
  decide +kernel

theorem witness_MovAndSelCopyAValue :
    TCode.fr ∈ allTypes ∧ tagOf (full.reg 1) = .fr ∧ tagOf (full.reg 13) = .fr ∧
    full.reg 0 = .bool true ∧ full.reg 12 = .bool false := by decide +kernel

theorem witness_ConstMakesZeroOneIdentity :
    paramsOk full.params = true ∧ (0 : BitVec 10).toNat ≤ 1 ∧ (1 : BitVec 10).toNat ≤ 1 ∧
    TCode.fq12 ∈ fieldTypes ∧ TCode.g2a ∈ pointTypes := by decide +kernel

/-- The premises of the kernel statements hold for both default base fields and the small ones. -/
theorem witness_MontgomeryFormIsABijection :
    baseFieldOk defaultParams.fr = true ∧ baseFieldOk defaultParams.fq = true ∧
    baseFieldOk toyParams.fr = true ∧ (0 : Nat) < toyParams.fr.p.toNat ∧
    (12 : Nat) < toyParams.fr.p.toNat ∧ canonical toyParams.fr 0 = true ∧
    canonical toyParams.fr 12 = true := by decide +kernel

theorem witness_MontgomeryProductIsExact :
    baseFieldOk toyParams.fq = true ∧ (0 : Nat) < toyParams.fq.p.toNat * 2 ^ 384 ∧
    7 * 2 ^ 384 - 1 < toyParams.fq.p.toNat * 2 ^ 384 ∧ canonical toyParams.fq 6 = true := by
  decide +kernel

theorem witness_ValidChainComputesTheInversePower :
    baseFieldOk toyParams.fr = true ∧ canonical toyParams.fr 0 = true ∧
    canonical toyParams.fr 12 = true ∧ (12 : Fr) ≠ 0 := by decide +kernel

theorem witness_FieldsAreCommutativeRings : paramsOk defaultParams = true := by decide +kernel

theorem witness_TowerGeneratorsSatisfyTheirEquations :
    paramsOk toyParams = true ∧ canonical2 toyParams ⟨6, 6⟩ = true ∧
    canonical12 toyParams ⟨⟨⟨1, 2⟩, ⟨3, 4⟩, ⟨5, 6⟩⟩, zero6⟩ = true := by decide +kernel

theorem witness_AdditiveCommandsActOnCoefficients :
    paramsOk full.params = true ∧ TCode.fq12 ∈ fieldTypes ∧ tagOf (full.reg 5) = .fq12 ∧
    valueOk full.params (full.reg 5) = true ∧ tagOf (full.reg 1) = .fr ∧ tagOf (full.reg 13) = .fr := by
  decide +kernel

theorem witness_MultiplyIsTheFieldProduct :
    paramsOk full.params = true ∧ (∀ r : Reg, valueOk full.params (full.reg r) = true) ∧
    full.reg 1 = .fr 3 ∧ full.reg 2 = .fq 5 ∧ full.reg 3 = .fq2 ⟨3, 4⟩ ∧ tagOf (full.reg 4) = .fq6 ∧
    tagOf (full.reg 5) = .fq12 :=
  ⟨toy_params_ok, full_values, by decide +kernel, by decide +kernel, by decide +kernel,
    by decide +kernel, by decide +kernel⟩

/-- FR 0 and FR 1 in a field of prime modulus. -/
theorem witness_InverseInPrimeFields :
    paramsOk full.params = true ∧ (modulusOf full.params .fr).Prime ∧ tagOf (full.reg 1) = .fr ∧
    valueOk full.params (full.reg 1) = true ∧ coeffs full.params (full.reg 1) = [1] ∧
    tagOf (full.reg 13) = .fr ∧ coeffs full.params (full.reg 13) = [0] := by
  refine ⟨toy_params_ok, toy_conforming.primeFr, ?_, full_values 1, ?_, ?_, ?_⟩ <;> decide +kernel

theorem witness_InverseInTowerFields :
    Conforming full.params ∧ (∀ r : Reg, valueOk full.params (full.reg r) = true) ∧
    full.reg 3 = .fq2 ⟨3, 4⟩ ∧ (⟨3, 4⟩ : Fq2) ≠ zero2 ∧ tagOf (full.reg 4) = .fq6 ∧
    tagOf (full.reg 5) = .fq12 ∧
    valueOk full.params ((full.setReg 3 (.fq2 zero2)).reg 3) = true := by
  refine ⟨toy_conforming, full_values, ?_, ?_, ?_, ?_, ?_⟩ <;> decide +kernel

theorem witness_ReduceDividesByR :
    paramsOk full.params = true ∧ full.reg 1 = .fr 3 ∧ full.reg 2 = .fq 5 ∧
    valueOk full.params (full.reg 1) = true ∧ valueOk full.params (full.reg 2) = true := by decide +kernel

theorem witness_FieldTestsCompareCanonicalValues :
    paramsOk full.params = true ∧ TCode.fr ∈ fieldTypes ∧ tagOf (full.reg 1) = .fr ∧
    tagOf (full.reg 13) = .fr ∧ valueOk full.params (full.reg 1) = true ∧
    valueOk full.params (full.reg 13) = true := by decide +kernel

theorem witness_MulnrAndConjOnTheTower :
    paramsOk full.params = true ∧ valueOk full.params (full.reg 3) = true ∧
    full.reg 3 = .fq2 ⟨3, 4⟩ ∧ tagOf (full.reg 4) = .fq6 ∧ valueOk full.params (full.reg 4) = true ∧
    tagOf (full.reg 5) = .fq12 ∧ valueOk full.params (full.reg 5) = true := by decide +kernel

theorem witness_FrobeniusIsThePowerMap :
    Conforming full.params ∧ (0 : BitVec 10).toNat ≤ 11 ∧ (11 : BitVec 10).toNat ≤ 11 ∧
    valueOk full.params (full.reg 5) = true ∧ tagOf (full.reg 3) = .fq2 ∧ tagOf (full.reg 4) = .fq6 ∧
    tagOf (full.reg 5) = .fq12 := by
  refine ⟨toy_conforming, ?_, ?_, full_values 5, ?_, ?_, ?_⟩ <;> decide +kernel

/-- A projective register, a finite affine one and an affine identity give a point to PADD. -/
theorem witness_AddAndDoublePointsByTheFormulas :
    HoldsG1 full.params (full.reg 7) ⟨6, 2, 2⟩ ∧ HoldsG1 full.params (full.reg 6) ⟨3, 1, 1⟩ ∧
    HoldsG1 full.params (full.reg 14) ⟨0, 1, 0⟩ ∧
    HoldsG2 full.params (full.reg 8) ⟨⟨0, 1⟩, ⟨1, 0⟩, ⟨1, 0⟩⟩ ∧
    HoldsEd full.params (full.reg 10) ⟨12, 12, 9, 3⟩ := by
  refine ⟨Or.inl (by decide +kernel), Or.inr ⟨⟨3, 1, false⟩, ?_⟩, Or.inr ⟨⟨0, 1, true⟩, ?_⟩,
    Or.inr ⟨⟨⟨0, 1⟩, ⟨1, 0⟩, false⟩, ?_⟩, Or.inr ⟨⟨12, 12⟩, ?_⟩⟩ <;> decide +kernel

theorem witness_NegatePointOrNone :
    full.reg 7 = .g1p ⟨6, 2, 2⟩ ∧ full.reg 9 = .g2p ⟨⟨0, 1⟩, ⟨1, 0⟩, ⟨1, 0⟩⟩ ∧
    full.reg 11 = .ede ⟨12, 12, 9, 3⟩ ∧ full.reg 6 = .g1a ⟨3, 1, false⟩ ∧
    full.reg 14 = .g1a ⟨0, 1, true⟩ ∧ full.reg 8 = .g2a ⟨⟨0, 1⟩, ⟨1, 0⟩, false⟩ ∧
    full.reg 10 = .eda ⟨12, 12⟩ := by decide +kernel

theorem witness_ToAffineUndoesToProjective :
    paramsOk full.params = true ∧ valueOk full.params (full.reg 6) = true ∧
    full.reg 6 = .g1a ⟨3, 1, false⟩ ∧ valueOk full.params (full.reg 14) = true ∧
    full.reg 14 = .g1a ⟨0, 1, true⟩ ∧ valueOk full.params (full.reg 8) = true ∧
    tagOf (full.reg 8) = .g2a ∧ valueOk full.params (full.reg 10) = true ∧
    full.reg 10 = .eda ⟨12, 12⟩ := by decide +kernel

/-- Z other than 0, and Z = 0 in each form. -/
theorem witness_ToAffineDividesByZ :
    Conforming full.params ∧ valueOk full.params (full.reg 7) = true ∧ full.reg 7 = .g1p ⟨6, 2, 2⟩ ∧
    valueOk full.params (full.reg 9) = true ∧ tagOf (full.reg 9) = .g2p ∧
    valueOk full.params (full.reg 11) = true ∧ full.reg 11 = .ede ⟨12, 12, 9, 3⟩ ∧
    valueOk full.params ((full.setReg 7 (.g1p ⟨0, 5, 0⟩)).reg 7) = true ∧
    valueOk full.params ((full.setReg 7 (.ede ⟨0, 5, 0, 0⟩)).reg 7) = true := by
  refine ⟨toy_conforming, full_values 7, ?_, full_values 9, ?_, full_values 11, ?_, ?_, ?_⟩ <;>
    decide +kernel

theorem witness_PointEqualityCrossMultiplies :
    full.reg 7 = .g1p ⟨6, 2, 2⟩ ∧ tagOf (full.reg 9) = .g2p ∧ full.reg 11 = .ede ⟨12, 12, 9, 3⟩ ∧
    full.reg 6 = .g1a ⟨3, 1, false⟩ ∧ full.reg 14 = .g1a ⟨0, 1, true⟩ ∧ tagOf (full.reg 8) = .g2a ∧
    full.reg 10 = .eda ⟨12, 12⟩ := by decide +kernel

theorem witness_IdentityAndCurveTests :
    paramsOk full.params = true ∧
    (∀ r ∈ ([6, 7, 8, 9, 10, 11, 14] : List Reg), tagOf (full.reg r) ∈ pointTypes ∧
      valueOk full.params (full.reg r) = true) := by decide +kernel

/-- Valid points of every group, the identity among them. -/
theorem witness_EqualityIsEqualityOfAffineForms :
    Conforming toyParams ∧ ValidProj (fqOps toyParams) (canonical toyParams.fq) toyParams.bG1 ⟨6, 2, 2⟩ ∧
    ValidProj (fqOps toyParams) (canonical toyParams.fq) toyParams.bG1 ⟨0, 5, 0⟩ ∧
    ValidProj (fq2Ops toyParams) (canonical2 toyParams) toyParams.bG2 ⟨⟨0, 1⟩, ⟨1, 0⟩, ⟨1, 0⟩⟩ ∧
    ValidExt toyParams ⟨12, 12, 9, 3⟩ ∧ ValidExt toyParams ⟨0, 3, 0, 3⟩ := by
  refine ⟨toy_conforming, ⟨?_, ?_⟩, ⟨?_, ?_⟩, ⟨?_, ?_⟩, ⟨?_, ?_⟩, ⟨?_, ?_⟩⟩ <;> decide +kernel

/-- A point, another representative of its negative, and an identity, in each group. -/
theorem witness_NegativeCancelsAndIdentityIsNeutral :
    Conforming toyParams ∧
    ValidProj (fqOps toyParams) (canonical toyParams.fq) toyParams.bG1 ⟨6, 2, 2⟩ ∧
    ValidProj (fqOps toyParams) (canonical toyParams.fq) toyParams.bG1 ⟨3, 6, 1⟩ ∧
    ValidProj (fqOps toyParams) (canonical toyParams.fq) toyParams.bG1 ⟨0, 5, 0⟩ ∧
    ValidProj (fq2Ops toyParams) (canonical2 toyParams) toyParams.bG2 ⟨⟨0, 1⟩, ⟨1, 0⟩, ⟨1, 0⟩⟩ ∧
    ValidProj (fq2Ops toyParams) (canonical2 toyParams) toyParams.bG2 ⟨⟨2, 3⟩, ⟨4, 2⟩, ⟨3, 5⟩⟩ ∧
    ValidProj (fq2Ops toyParams) (canonical2 toyParams) toyParams.bG2 ⟨zero2, ⟨2, 3⟩, zero2⟩ ∧
    ValidExt toyParams ⟨12, 12, 9, 3⟩ ∧
    ValidExt toyParams ⟨2, 11, 8, 6⟩ ∧
    ValidExt toyParams ⟨0, 1, 0, 1⟩ ∧
    (g1Ops toyParams).eqE ⟨3, 6, 1⟩ ((g1Ops toyParams).negE ⟨6, 2, 2⟩) = true ∧
    (g1Ops toyParams).isidE ⟨0, 5, 0⟩ = true ∧
    (g2Ops toyParams).eqE ⟨⟨2, 3⟩, ⟨4, 2⟩, ⟨3, 5⟩⟩ ((g2Ops toyParams).negE ⟨⟨0, 1⟩, ⟨1, 0⟩, ⟨1, 0⟩⟩) = true ∧
    (g2Ops toyParams).isidE ⟨zero2, ⟨2, 3⟩, zero2⟩ = true ∧
    (edOps toyParams).eqE ⟨2, 11, 8, 6⟩ ((edOps toyParams).negE ⟨12, 12, 9, 3⟩) = true ∧
    (edOps toyParams).isidE ⟨0, 1, 0, 1⟩ = true := by
  refine ⟨toy_conforming, ⟨?_, ?_⟩, ⟨?_, ?_⟩, ⟨?_, ?_⟩, ⟨?_, ?_⟩, ⟨?_, ?_⟩, ⟨?_, ?_⟩, ⟨?_, ?_⟩, ⟨?_, ?_⟩,
    ⟨?_, ?_⟩, ?_, ?_, ?_, ?_, ?_, ?_⟩ <;>
    decide +kernel

/-- Two representatives of one finite point and a point with another x, in G1 and in G2. -/
theorem witness_WeierstrassSumIsChordOrTangent :
    Conforming toyParams ∧
    ValidProj (fqOps toyParams) (canonical toyParams.fq) toyParams.bG1 ⟨6, 2, 2⟩ ∧
    ValidProj (fqOps toyParams) (canonical toyParams.fq) toyParams.bG1 ⟨3, 1, 1⟩ ∧
    ValidProj (fqOps toyParams) (canonical toyParams.fq) toyParams.bG1 ⟨5, 6, 1⟩ ∧
    ValidProj (fq2Ops toyParams) (canonical2 toyParams) toyParams.bG2 ⟨⟨2, 3⟩, ⟨3, 5⟩, ⟨3, 5⟩⟩ ∧
    ValidProj (fq2Ops toyParams) (canonical2 toyParams) toyParams.bG2 ⟨⟨0, 1⟩, ⟨1, 0⟩, ⟨1, 0⟩⟩ ∧
    ValidProj (fq2Ops toyParams) (canonical2 toyParams) toyParams.bG2 ⟨⟨0, 2⟩, ⟨6, 0⟩, ⟨1, 0⟩⟩ ∧
    (g1Ops toyParams).toAff ⟨6, 2, 2⟩ = some ⟨3, 1, false⟩ ∧
    (g1Ops toyParams).toAff ⟨3, 1, 1⟩ = some ⟨3, 1, false⟩ ∧
    (g1Ops toyParams).toAff ⟨5, 6, 1⟩ = some ⟨5, 6, false⟩ ∧
    (g2Ops toyParams).toAff ⟨⟨2, 3⟩, ⟨3, 5⟩, ⟨3, 5⟩⟩ = some ⟨⟨0, 1⟩, ⟨1, 0⟩, false⟩ ∧
    (g2Ops toyParams).toAff ⟨⟨0, 1⟩, ⟨1, 0⟩, ⟨1, 0⟩⟩ = some ⟨⟨0, 1⟩, ⟨1, 0⟩, false⟩ ∧
    (g2Ops toyParams).toAff ⟨⟨0, 2⟩, ⟨6, 0⟩, ⟨1, 0⟩⟩ = some ⟨⟨0, 2⟩, ⟨6, 0⟩, false⟩ := by
  refine ⟨toy_conforming, ⟨?_, ?_⟩, ⟨?_, ?_⟩, ⟨?_, ?_⟩, ⟨?_, ?_⟩, ⟨?_, ?_⟩, ⟨?_, ?_⟩, ?_, ?_, ?_, ?_, ?_,
    ?_⟩ <;>
    decide +kernel

/-- Two representatives of one point, and another point. -/
theorem witness_EdwardsSumIsTheAdditionLaw :
    Conforming toyParams ∧
    ValidExt toyParams ⟨12, 12, 9, 3⟩ ∧
    ValidExt toyParams ⟨11, 11, 5, 6⟩ ∧
    ValidExt toyParams ⟨0, 10, 0, 3⟩ ∧
    (edOps toyParams).toAff ⟨12, 12, 9, 3⟩ = some ⟨12, 12⟩ ∧
    (edOps toyParams).toAff ⟨11, 11, 5, 6⟩ = some ⟨12, 12⟩ ∧
    (edOps toyParams).toAff ⟨0, 10, 0, 3⟩ = some ⟨0, 10⟩ := by
  refine ⟨toy_conforming, ⟨?_, ?_⟩, ⟨?_, ?_⟩, ⟨?_, ?_⟩, ?_, ?_, ?_⟩ <;>
    decide +kernel

theorem witness_WeierstrassFunctionsKeepPointsValid :
    Conforming toyParams ∧ ValidProj (fqOps toyParams) (canonical toyParams.fq) toyParams.bG1 ⟨6, 2, 2⟩ ∧
    ValidProj (fq2Ops toyParams) (canonical2 toyParams) toyParams.bG2 ⟨⟨0, 1⟩, ⟨1, 0⟩, ⟨1, 0⟩⟩ := by
  refine ⟨toy_conforming, ⟨?_, ?_⟩, ⟨?_, ?_⟩⟩ <;> decide +kernel

theorem witness_EdwardsFunctionsKeepPointsValid :
    Conforming toyParams ∧ ValidExt toyParams ⟨12, 12, 9, 3⟩ ∧ ValidExt toyParams ⟨0, 10, 0, 3⟩ := by
  refine ⟨toy_conforming, ⟨?_, ?_⟩, ⟨?_, ?_⟩⟩ <;> decide +kernel

/-- The greatest scalar; its top digit is d_256 (46_scalar_multiplier.md R401). -/
theorem witness_NafDigitsRepresentTheScalar :
    2 ^ 256 - 1 < 2 ^ 256 ∧ (naf (2 ^ 256 - 1))[256]? = some NafDigit.one ∧
    (naf 11).take 6 = [.minusOne, .zero, .minusOne, .zero, .one, .zero] ∧
    ∀ j : Fin 257, 4 < j.val → (naf 11)[j.val]? = some NafDigit.zero := by decide +kernel

theorem witness_ScalarMultiplyRunsTheNafLoop :
    full.reg 1 = .fr 3 ∧ HoldsG1 full.params (full.reg 7) ⟨6, 2, 2⟩ ∧
    HoldsG2 full.params (full.reg 9) ⟨⟨0, 1⟩, ⟨1, 0⟩, ⟨1, 0⟩⟩ ∧
    HoldsEd full.params (full.reg 11) ⟨12, 12, 9, 3⟩ := by
  refine ⟨?_, Or.inl ?_, Or.inl ?_, Or.inl ?_⟩ <;> decide +kernel

theorem witness_ScalarZeroAndOne :
    paramsOk full.params = true ∧ full.reg 1 = .fr 3 ∧ canonical full.params.fr 3 = true ∧
    valOf full.params.fr 3 = 1 ∧ full.reg 13 = .fr 0 ∧ valOf full.params.fr 0 = 0 ∧
    valueOk full.params (full.reg 7) = true ∧ HoldsG1 full.params (full.reg 7) ⟨6, 2, 2⟩ ∧
    HoldsEd full.params (full.reg 11) ⟨12, 12, 9, 3⟩ := by
  refine ⟨toy_params_ok, ?_, ?_, ?_, ?_, ?_, full_values 7, Or.inl ?_, Or.inl ?_⟩ <;> decide +kernel

/-- A narrow, a misaligned and unmapped accesses, at the ends of the unmapped ranges. -/
theorem witness_IllegalAccessOnlySetsBuserr :
    AccessSize.b4 ≠ .b8 ∧ (0x0004 : BitVec 16).toNat % 8 ≠ 0 ∧
    (0x0040 ≤ (0x0040 : BitVec 16).toNat ∧ (0x0040 : BitVec 16).toNat < 0x2000) ∧
    (0x0040 ≤ (0x1FF8 : BitVec 16).toNat ∧ (0x1FF8 : BitVec 16).toNat < 0x2000) ∧
    (0x0040 ≤ (0x4000 : BitVec 16).toNat ∧ 0x4000 ≤ (0x4000 : BitVec 16).toNat) ∧
    (0x0040 ≤ (0xFFF8 : BitVec 16).toNat ∧ 0x4000 ≤ (0xFFF8 : BitVec 16).toNat) ∧
    (fullWith [.host ⟨.read, 0x4000, .b8, 0⟩]).inputs = [.host ⟨.read, 0x4000, .b8, 0⟩] := by
  decide +kernel

/-- The first and the last word of IOBUF, in a state that is BUSY and in one that is not. -/
theorem witness_IobufIsInterlockedWithTheEngine :
    ((0x2000 : BitVec 16).toNat % 8 = 0 ∧ 0x2000 ≤ (0x2000 : BitVec 16).toNat) ∧
    ((0x3FF8 : BitVec 16).toNat % 8 = 0 ∧ (0x3FF8 : BitVec 16).toNat < 0x4000) ∧
    full.busy = false ∧ ({ full with fifo := [0] } : State).busy = true := by decide +kernel

theorem witness_CommandWriteAppendsOrOverflows :
    ({ full with fifo := List.replicate 15 0 } : State).qcount < 16 ∧ full.status.fault = false ∧
    16 ≤ ({ full with fifo := List.replicate 16 0 } : State).qcount ∧
    (faulted []).status.fault = true := by decide +kernel

theorem witness_StatusWriteClearsStickyBits :
    (fullWith [.host ⟨.write, 0x0018, .b8, 0xFC⟩]).inputs = .host ⟨.write, 0x0018, .b8, 0xFC⟩ :: [] := rfl

theorem witness_RegisterReadsReturnTheirFields :
    full.qcount ≤ 16 ∧ (0x0000 : BitVec 16).toNat % 8 = 0 ∧ (0x0038 : BitVec 16).toNat % 8 = 0 ∧
    (0x0038 : BitVec 16).toNat < 0x0040 ∧
    (fullWith [.host ⟨.read, 0x0038, .b8, 0⟩]).inputs = .host ⟨.read, 0x0038, .b8, 0⟩ :: [] := by
  decide +kernel

theorem witness_HostTurnsReachNoValueRegister :
    (fullWith [.host ⟨.write, 0x0038, .b8, 9⟩]).inputs = .host ⟨.write, 0x0038, .b8, 9⟩ :: [] ∧
    step (fullWith [.host ⟨.write, 0x0038, .b8, 9⟩]) =
      .next (nextOf (step (fullWith [.host ⟨.write, 0x0038, .b8, 9⟩]))) ∧
    (0x0038 : BitVec 16) ∈ ([0x0000, 0x0008, 0x0028, 0x0030, 0x0038] : List (BitVec 16)) :=
  ⟨rfl, eq_next_of_isNext (by decide +kernel), by decide⟩

theorem witness_ResetsRestoreTheResetValues :
    (0x200 : Word).getLsbD 9 = true ∧
    (fullWith [.host ⟨.write, 0x0010, .b8, 0x200⟩]).inputs =
      .host ⟨.write, 0x0010, .b8, 0x200⟩ :: [] ∧
    (fullWith [.hardReset]).inputs = .hardReset :: [] := by decide +kernel

/-- A good state with a command in the slot: it retires. -/
theorem witness_StepKeepsGoodStates :
    StateInv full ∧ step full = .next (nextOf (step full)) ∧
    step { full with inflight := some 0x40804800 } =
      .next (nextOf (step { full with inflight := some 0x40804800 })) :=
  ⟨full_good, eq_next_of_isNext (by decide +kernel), eq_next_of_isNext (by decide +kernel)⟩

theorem witness_StepKeepsPointsOnTheirCurves :
    Conforming full.params ∧ StateInv full ∧ PointsOk full ∧ step full = .next (nextOf (step full)) :=
  ⟨toy_conforming, full_good, full_points, eq_next_of_isNext (by decide +kernel)⟩

/-- A state with DONE set, at an ENGINE turn and at a write to CTRL without SRST. -/
theorem witness_StickyBitsStayAndParametersNeverChange :
    let s : State := { full with status := { Status.reset with done := true }, inflight := some 0 }
    step s = .next (nextOf (step s)) ∧ (∀ rest, s.inputs ≠ .hardReset :: rest) ∧
    (∀ a rest, s.inputs = .host a :: rest → a.kind = .write →
      a.addr ≠ 0x0018 ∧ ¬(a.addr = 0x0010 ∧ a.wdata.getLsbD 9 = true)) ∧
    s.status.done = true ∧
    (∀ a rest, (fullWith [.host ⟨.write, 0x0010, .b8, 0x103⟩]).inputs = .host a :: rest → a.kind = .write →
      a.addr ≠ 0x0018 ∧ ¬(a.addr = 0x0010 ∧ a.wdata.getLsbD 9 = true)) := by
  refine ⟨eq_next_of_isNext (by decide +kernel), ?_, ?_, rfl, ?_⟩
  · intro rest h; cases h
  · intro a rest h; cases h
  · intro a rest h _; cases h; decide

/-- A register emptied by a hard reset, by a soft reset, by INV of zero and by LD of a coefficient at the
modulus. -/
theorem witness_RegistersEmptyOnlyByNoneOrDecfail :
    full.reg 1 ≠ .empty ∧ (nextOf (step (fullWith [.hardReset]))).reg 1 = .empty ∧
    (nextOf (step (fullWith [.host ⟨.write, 0x0010, .b8, 0x200⟩]))).reg 1 = .empty ∧
    (nextOf (step { full with inflight := some (encode (.inv .fr 1 13)) })).reg 1 = .empty ∧
    (nextOf (step { fullIobuf [(8160, 32, 13)] with
      inflight := some (encode (.ld .fr 1 1020)) })).reg 1 = .empty := by
  decide +kernel

/-- Two states that agree on the sources of an ADD and on the bytes of an LD, and differ elsewhere. -/
theorem witness_ResultDependsOnlyOnSources :
    let s := full.setReg 9 .empty
    let t := { full with cmdCount := 99, iobuf := [(8000, 1)] }
    s.params = t.params ∧ s.reg 1 = t.reg 1 ∧ s.reg 13 = t.reg 13 ∧
    sourcesOf (.add .fr 0 1 13) = [(1, [.fr]), (13, [.fr])] ∧ faultOf s (.add .fr 0 1 13) = none ∧
    s.reg 9 ≠ t.reg 9 ∧ (∀ a : Fin 32, s.iobufByte a = t.iobufByte a) := by
  refine ⟨by decide +kernel, by decide +kernel, by decide +kernel, by decide +kernel,
    by decide +kernel, by decide +kernel, ?_⟩
  intro a
  have h : a.val ≠ 8000 := by omega
  show ((Memory.read [] a.val).getD _) = ((Memory.read [(8000, 1)] a.val).getD _)
  rw [show Memory.read [(8000, 1)] a.val = none from if_neg h]
  rfl

end Sys2Proof.Tests
end

section
/-!
SUPPORT. What one step can do, said once: which agent takes the turn, what the ENGINE's turn leaves, which
effect each command commits, and what each host access leaves (70_reset_and_hazards.md R480, R481).
-/

namespace Sys2Proof.Machine

open Config

/-! ### The checks of a command as propositions -/

theorem bind_eq_ok {ε α β : Type} {m : Except ε α} {f : α → Except ε β} {b : β} :
    (m >>= f) = .ok b ↔ ∃ a, m = .ok a ∧ f a = .ok b := by
  cases m <;> simp [bind, Except.bind]

theorem map_eq_ok {ε α β : Type} {m : Except ε α} {f : α → β} {b : β} :
    m.map f = .ok b ↔ ∃ a, m = .ok a ∧ f a = b := by
  cases m <;> simp [Except.map]

theorem pure_eq_ok {ε α : Type} {a b : α} : (pure a : Except ε α) = .ok b ↔ b = a := by
  simp [pure, Except.pure, eq_comm]

theorem checkType_eq_ok {t : TCode} {ts : List TCode} {u : Unit} : checkType t ts = .ok u ↔ t ∈ ts := by
  cases u; simp [checkType, check_eq_ok]

theorem checkImm_eq_ok {b : Bool} {u : Unit} : checkImm b = .ok u ↔ b = true := by
  cases u; exact check_eq_ok

theorem checkRange_eq_ok {t : TCode} {off : BitVec 10} {u : Unit} :
    checkRange t off = .ok u ↔ rangeLegal t off = true := by
  cases u; exact check_eq_ok

/-- Register `r` passes step 6 of 60_exceptions.md R425 for the given tags. -/
def Operand (s : State) (r : Reg) (required : List TCode) : Prop :=
  tagOf (s.reg r) ≠ .empty ∧ tagOf (s.reg r) ∈ required

theorem source_eq_ok_iff {s : State} {r : Reg} {required : List TCode} {x : Value} :
    source s r required = .ok x ↔ x = s.reg r ∧ Operand s r required := by
  rw [source_eq_ok, Operand, eq_comm]

theorem Operand.ne_empty {s : State} {r : Reg} {required : List TCode} (h : Operand s r required) :
    s.reg r ≠ .empty := fun he => h.1 (tagOf_eq_empty.2 he)

theorem Operand.tag_eq {s : State} {r : Reg} {t : TCode} (h : Operand s r [t]) : tagOf (s.reg r) = t := by
  simpa using h.2

/-! ### What a command commits -/

/-- The command `i` passes its checks on `s` and commits the effect `e` (60_exceptions.md R425,
70_reset_and_hazards.md R481). -/
def Commits (s : State) (i : Instr) (e : Effect) : Prop :=
  match i with
  | .nop => e = .nothing
  | .ld t d off => t ∈ allTypes ∧ rangeLegal t off = true ∧
      e = putOrDecfail d (decodeCanonical s t off.toNat)
  | .st t d off => t ∈ allTypes ∧ rangeLegal t off = true ∧ Operand s d [t] ∧
      e = .store off.toNat (encodeCanonical s.params (s.reg d))
  | .ldm t d off => t ∈ fieldTypes ∧ rangeLegal t off = true ∧
      e = putOrDecfail d (decodeRaw s t off.toNat)
  | .stm t d off => t ∈ fieldTypes ∧ rangeLegal t off = true ∧ Operand s d [t] ∧
      e = .store off.toNat (encodeRaw (s.reg d))
  | .mov t d a => t ∈ allTypes ∧ Operand s a [t] ∧ e = .put d (s.reg a)
  | .const t d k => t ∈ allTypes ∧ constImmLegal t k = true ∧
      ∃ x, constValue s.params t k = .ok x ∧ e = .put d x
  | .sel t d a b c => t ∈ allTypes ∧ Operand s a [t] ∧ Operand s b [t] ∧ Operand s c [.bool] ∧
      ∃ z, boolOperand (s.reg c) = .ok z ∧ e = .put d (ctSelect (s.reg a) (s.reg b) z)
  | .add t d a b => t ∈ fieldTypes ∧ Operand s a [t] ∧ Operand s b [t] ∧
      ∃ x, fieldBinary s.params (fun _ F => F.add) (s.reg a) (s.reg b) = .ok x ∧ e = .put d x
  | .sub t d a b => t ∈ fieldTypes ∧ Operand s a [t] ∧ Operand s b [t] ∧
      ∃ x, fieldBinary s.params (fun _ F => F.sub) (s.reg a) (s.reg b) = .ok x ∧ e = .put d x
  | .dbl t d a => t ∈ fieldTypes ∧ Operand s a [t] ∧
      ∃ x, fieldUnary s.params (fun _ F => F.dbl) (s.reg a) = .ok x ∧ e = .put d x
  | .neg t d a => t ∈ fieldTypes ∧ Operand s a [t] ∧
      ∃ x, fieldUnary s.params (fun _ F => F.neg) (s.reg a) = .ok x ∧ e = .put d x
  | .mul t d a b => t ∈ fieldTypes ∧ Operand s a [t] ∧ Operand s b [t] ∧
      ∃ x, fieldBinary s.params (fun _ F => F.mul) (s.reg a) (s.reg b) = .ok x ∧ e = .put d x
  | .sqr t d a => t ∈ fieldTypes ∧ Operand s a [t] ∧
      ∃ x, fieldUnary s.params (fun _ F => F.sqr) (s.reg a) = .ok x ∧ e = .put d x
  | .inv t d a => t ∈ fieldTypes ∧ Operand s a [t] ∧
      ∃ o, fieldInverse s.params (s.reg a) = .ok o ∧ e = putOrNone d o
  | .mred t d a => t ∈ [TCode.fr, .fq] ∧ Operand s a [t] ∧
      ∃ x, reduceValue s.params (s.reg a) = .ok x ∧ e = .put d x
  | .eq t d a b => t ∈ fieldTypes ∧ Operand s a [t] ∧ Operand s b [t] ∧
      ∃ z, fieldCompare s.params (fun _ F => F.eq) (s.reg a) (s.reg b) = .ok z ∧ e = .put d (.bool z)
  | .iszero t d a => t ∈ fieldTypes ∧ Operand s a [t] ∧
      ∃ z, fieldTest s.params (fun _ F => F.isZero) (s.reg a) = .ok z ∧ e = .put d (.bool z)
  | .isone t d a => t ∈ fieldTypes ∧ Operand s a [t] ∧
      ∃ z, fieldTest s.params (fun _ F => F.isOne) (s.reg a) = .ok z ∧ e = .put d (.bool z)
  | .mulnr t d a => t ∈ [TCode.fq2, .fq6] ∧ Operand s a [t] ∧
      ∃ x, mulNonResidue s.params (s.reg a) = .ok x ∧ e = .put d x
  | .conj t d a => t ∈ [TCode.fq2, .fq12] ∧ Operand s a [t] ∧
      ∃ x, conjugate s.params (s.reg a) = .ok x ∧ e = .put d x
  | .frob t d a i => t ∈ [TCode.fq2, .fq6, .fq12] ∧ frobImmLegal i = true ∧ Operand s a [t] ∧
      ∃ x, frobenius s.params i.toNat (s.reg a) = .ok x ∧ e = .put d x
  | .padd t d a b => t ∈ projTypes ∧ Operand s a [t, affOf t] ∧ Operand s b [t, affOf t] ∧
      ∃ x, pointBinary s.params (fun _ _ G => G.add) t (s.reg a) (s.reg b) = .ok x ∧ e = .put d x
  | .pdbl t d a => t ∈ projTypes ∧ Operand s a [t, affOf t] ∧
      ∃ x, pointUnary s.params (fun _ _ G => G.dbl) t (s.reg a) = .ok x ∧ e = .put d x
  | .pneg t d a => t ∈ pointTypes ∧ Operand s a [t] ∧
      ∃ o, pointNegate s.params (s.reg a) = .ok o ∧ e = putOrNone d o
  | .psmul t d a b => t ∈ projTypes ∧ Operand s a [t, affOf t] ∧ Operand s b [.fr] ∧
      ∃ k, scalarOperand s.params (s.reg b) = .ok k ∧
        ∃ x, pointUnary s.params (fun _ _ G p => smul G p k) t (s.reg a) = .ok x ∧ e = .put d x
  | .toproj t d a => t ∈ projTypes ∧ Operand s a [affOf t] ∧
      ∃ x, pointToProj s.params (s.reg a) = .ok x ∧ e = .put d x
  | .toaff t d a => t ∈ affTypes ∧ Operand s a [projOf t] ∧
      ∃ o, pointToAff s.params (s.reg a) = .ok o ∧ e = putOrNone d o
  | .peq t d a b => t ∈ pointTypes ∧ Operand s a [t] ∧ Operand s b [t] ∧
      ∃ z, pointEqual s.params (s.reg a) (s.reg b) = .ok z ∧ e = .put d (.bool z)
  | .isid t d a => t ∈ pointTypes ∧ Operand s a [t] ∧
      ∃ z, pointIsId s.params (s.reg a) = .ok z ∧ e = .put d (.bool z)
  | .oncurve t d a => t ∈ pointTypes ∧ Operand s a [t] ∧
      ∃ z, pointOnCurve s.params (s.reg a) = .ok z ∧ e = .put d (.bool z)

/-- Every command runs its checks and ends in its effect or its fault; `Commits` says when it is the
effect, and which. -/
theorem exec_eq_complete (i : Instr) (s : State) :
    ∃ r, exec i s = complete r s ∧ ∀ e, r = .ok e ↔ Commits s i e := by
  cases i with
  | nop => exact ⟨.ok .nothing, rfl, fun e => by simp [Commits, eq_comm]⟩
  | _ =>
    refine ⟨_, rfl, fun e => ?_⟩
    simp [-bind_pure_comp, Commits, bind_eq_ok, pure_eq_ok, checkType_eq_ok, checkImm_eq_ok, checkRange_eq_ok,
      source_eq_ok_iff]

/-- Everything a command can do: commit its effect and retire, or take a fault. -/
theorem exec_cases {i : Instr} {s t : State} (h : exec i s = .next t) :
    (∃ e, Commits s i e ∧ t = retire (applyEffect e s)) ∨ ∃ c, t = takeFault c s := by
  obtain ⟨r, hr, hc⟩ := exec_eq_complete i s
  obtain ⟨e, he, ht⟩ | ⟨c, -, ht⟩ := complete_cases (hr ▸ h)
  · exact .inl ⟨e, (hc e).1 he, ht⟩
  · exact .inr ⟨c, ht⟩

@[simp] theorem put_eq_putOrNone {d d' : Reg} {x : Value} {o : Option Value} :
    Effect.put d x = putOrNone d' o ↔ d = d' ∧ o = some x := by
  cases o <;> simp [putOrNone, eq_comm]

@[simp] theorem noneResult_eq_putOrNone {d d' : Reg} {o : Option Value} :
    Effect.noneResult d = putOrNone d' o ↔ d = d' ∧ o = none := by
  cases o <;> simp [putOrNone]

@[simp] theorem decodeFailure_ne_putOrNone {d d' : Reg} {o : Option Value} :
    Effect.decodeFailure d ≠ putOrNone d' o := by
  cases o <;> simp [putOrNone]

@[simp] theorem store_ne_putOrNone {off : Nat} {chunks : List (Nat × Nat)} {d : Reg} {o : Option Value} :
    Effect.store off chunks ≠ putOrNone d o := by
  cases o <;> simp [putOrNone]

@[simp] theorem put_eq_putOrDecfail {d d' : Reg} {x : Value} {o : Option Value} :
    Effect.put d x = putOrDecfail d' o ↔ d = d' ∧ o = some x := by
  cases o <;> simp [putOrDecfail, eq_comm]

@[simp] theorem decodeFailure_eq_putOrDecfail {d d' : Reg} {o : Option Value} :
    Effect.decodeFailure d = putOrDecfail d' o ↔ d = d' ∧ o = none := by
  cases o <;> simp [putOrDecfail]

@[simp] theorem noneResult_ne_putOrDecfail {d d' : Reg} {o : Option Value} :
    Effect.noneResult d ≠ putOrDecfail d' o := by
  cases o <;> simp [putOrDecfail]

@[simp] theorem store_ne_putOrDecfail {off : Nat} {chunks : List (Nat × Nat)} {d : Reg}
    {o : Option Value} : Effect.store off chunks ≠ putOrDecfail d o := by
  cases o <;> simp [putOrDecfail]

/-- The None result is INV's, PNEG's or TOAFF's (60_exceptions.md R432). -/
theorem Commits.none_result {s : State} {i : Instr} {d : Reg} (h : Commits s i (.noneResult d)) :
    ∃ t a, i = .inv t d a ∨ i = .pneg t d a ∨ i = .toaff t d a := by
  cases i with
  | inv t d' a =>
    obtain ⟨-, -, o, -, he⟩ := h
    exact ⟨t, a, .inl (by rw [(noneResult_eq_putOrNone.1 he).1])⟩
  | pneg t d' a =>
    obtain ⟨-, -, o, -, he⟩ := h
    exact ⟨t, a, .inr (.inl (by rw [(noneResult_eq_putOrNone.1 he).1]))⟩
  | toaff t d' a =>
    obtain ⟨-, -, o, -, he⟩ := h
    exact ⟨t, a, .inr (.inr (by rw [(noneResult_eq_putOrNone.1 he).1]))⟩
  | _ => simp [Commits] at h

/-- A failed decode is LD's or LDM's (60_exceptions.md R431). -/
theorem Commits.decode_failure {s : State} {i : Instr} {d : Reg} (h : Commits s i (.decodeFailure d)) :
    ∃ t off, i = .ld t d off ∨ i = .ldm t d off := by
  cases i with
  | ld t d' off =>
    obtain ⟨-, -, he⟩ := h
    exact ⟨t, off, .inl (by rw [(decodeFailure_eq_putOrDecfail.1 he).1])⟩
  | ldm t d' off =>
    obtain ⟨-, -, he⟩ := h
    exact ⟨t, off, .inr (by rw [(decodeFailure_eq_putOrDecfail.1 he).1])⟩
  | _ => simp [Commits] at h

/-! ### The ENGINE's turn -/

/-- Everything the ENGINE's turn can do (70_reset_and_hazards.md R480): hold its state, start the head of
the FIFO, take a fault for the word in the slot, or commit its command and retire. -/
theorem engineStep_cases {s t : State} (h : engineStep s = .next t) :
    t = s ∨
    (∃ w rest, s.inflight = none ∧ s.status.fault = false ∧ s.fifo = w :: rest ∧
      t = { s with inflight := some w, fifo := rest }) ∨
    (∃ c, t = takeFault c s) ∨
    ∃ w i e, s.inflight = some w ∧ decode w = .instr i ∧ Commits s i e ∧
      t = retire (applyEffect e s) := by
  cases hslot : s.inflight with
  | none =>
    rw [engineStep_of_empty_slot hslot] at h
    obtain rfl : startStep s = t := by simpa using h
    unfold startStep
    cases hf : s.status.fault with
    | true => simp
    | false => cases hq : s.fifo <;> simp
  | some w =>
    cases hw : decode w with
    | fault c =>
      rw [engineStep_of_refused_word hslot hw] at h
      exact .inr (.inr (.inl ⟨c, by simpa using h.symm⟩))
    | instr i =>
      rw [engineStep_of_command hslot hw] at h
      obtain ⟨e, he, ht⟩ | hc := exec_cases h
      · exact .inr (.inr (.inr ⟨w, i, e, rfl, hw, he, ht⟩))
      · exact .inr (.inr (.inl hc))

/-! ### The turns -/

/-- Who takes a step (70_reset_and_hazards.md R480; log 4). -/
theorem step_cases {s t : State} (h : step s = .next t) :
    (∃ rest, s.inputs = .hardReset :: rest ∧ t = hardReset s.nextTurn) ∨
    (∃ a rest, s.inputs = .host a :: rest ∧ t = hostAccess a s.nextTurn) ∨
    engineStep s.nextTurn = .next t := by
  unfold step turn at h
  cases hi : s.inputs with
  | nil =>
    have hs : s.nextTurn = s := by cases s; simp_all [State.nextTurn]
    rw [hi] at h
    exact .inr (.inr (hs.symm ▸ h))
  | cons input rest =>
    rw [hi] at h
    cases input with
    | engine => exact .inr (.inr h)
    | host a => exact .inr (.inl ⟨a, rest, rfl, by simpa using h.symm⟩)
    | hardReset => exact .inl ⟨rest, rfl, by simpa using h.symm⟩

@[simp] theorem State.nextTurn_reg (s : State) (r : Reg) : s.nextTurn.reg r = s.reg r := rfl

/-! ### The host port -/

/-- A legal access is 8 bytes wide (20_memory.md R82). -/
theorem size_of_legalAccess {a : Access} (h : legalAccess a = true) : a.size = .b8 := by
  simp only [legalAccess, Bool.and_eq_true, decide_eq_true_eq] at h
  exact h.1.1

/-- A legal access outside the register block names a whole word of IOBUF (20_memory.md R82, R85). -/
theorem iobufOffset_of_legalAccess {a : Access} (h : legalAccess a = true)
    (hr : inRegisterBlock a.addr = false) : iobufOffset a.addr + 8 ≤ iobufBytes := by
  simp only [legalAccess, hr, inIobuf, Bool.and_eq_true, Bool.or_eq_true, Bool.false_eq_true, false_or,
    decide_eq_true_eq] at h
  obtain ⟨⟨-, haligned⟩, -, hlt⟩ := h
  show a.addr.toNat - 0x2000 + 8 ≤ 8192
  omega

/-- Everything a write to CTRL can do (10_state.md R43, 60_exceptions.md R442): a soft reset, new interrupt
enables, or these with the return from a fault. -/
theorem writeCtrl_cases (s : State) (data : Word) :
    (data.getLsbD 9 = true ∧ writeCtrl s data = softReset s) ∨
    (∃ d f, writeCtrl s data = { s with doneIe := d, faultIe := f }) ∨
    ∃ d f, writeCtrl s data =
      { s with doneIe := d, faultIe := f, status := { s.status with fault := false, faultCode := 0 } } := by
  unfold writeCtrl clearFault
  split
  next h => exact .inl ⟨h, rfl⟩
  next =>
    split
    next =>
      by_cases hf : s.status.fault = true
      · exact .inr (.inr ⟨data.getLsbD 0, data.getLsbD 1, if_pos hf⟩)
      · exact .inr (.inl ⟨data.getLsbD 0, data.getLsbD 1, if_neg hf⟩)
    next => exact .inr (.inl ⟨_, _, rfl⟩)

/-- Everything a write to CMD can do (60_exceptions.md R440). -/
theorem writeCmd_cases (s : State) (data : Word) :
    (s.qcount < 16 ∧ s.status.fault = false ∧
      ∃ c, writeCmd s data = { s with fifo := s.fifo ++ [c] }) ∨
    writeCmd s data = s.setCmdovf := by
  unfold writeCmd
  split
  next h => exact .inl ⟨h.1, h.2, _, rfl⟩
  next => exact .inr rfl

/-- Everything a write to the register block can do, by address (10_state.md R40, R43, R45, R46). -/
theorem writeRegister_cases (s : State) (addr : BitVec 16) (data : Word) :
    (addr = 0x0010 ∧ writeRegister s addr data = writeCtrl s data) ∨
    (addr = 0x0018 ∧ writeRegister s addr data = { s with status := clearStatus data s.status }) ∨
    (addr = 0x0020 ∧ writeRegister s addr data = writeCmd s data) ∨
    writeRegister s addr data = s := by
  unfold writeRegister
  split
  next h => exact .inl ⟨BitVec.eq_of_toNat_eq h, rfl⟩
  next h => exact .inr (.inl ⟨BitVec.eq_of_toNat_eq h, rfl⟩)
  next h => exact .inr (.inr (.inl ⟨BitVec.eq_of_toNat_eq h, rfl⟩))
  next => exact .inr (.inr (.inr rfl))

/-- Everything a host turn can do (20_memory.md R82, R83, R87, 10_state.md R40): set BUSERR or HOSTCONF,
write a register, write a word of IOBUF, or only answer. -/
theorem hostAccess_cases (a : Access) (s : State) :
    hostAccess a s = s.setBuserr.answer .error 0 ∨
    hostAccess a s = s.setHostconf.answer .error 0 ∨
    (∃ v, hostAccess a s = s.answer .okay v) ∨
    (a.kind = .write ∧ legalAccess a = true ∧
      hostAccess a s = (writeRegister s a.addr a.wdata).answer .okay 0) ∨
    (iobufOffset a.addr + 8 ≤ iobufBytes ∧
      hostAccess a s = (s.memWrite (iobufOffset a.addr) 8 a.wdata.toNat).answer .okay 0) := by
  unfold hostAccess
  by_cases hl : legalAccess a = true
  · rw [if_pos hl]
    by_cases hr : inRegisterBlock a.addr = true
    · rw [if_pos hr]
      cases hk : a.kind
      · exact .inr (.inr (.inl ⟨readRegister s a.addr, by simp [registerAccess, hk]⟩))
      · exact .inr (.inr (.inr (.inl ⟨rfl, hl, by simp [registerAccess, hk]⟩)))
    · rw [if_neg hr]
      by_cases hb : s.busy = true
      · exact .inr (.inl (by simp [iobufAccess, hb]))
      · cases hk : a.kind
        · exact .inr (.inr (.inl ⟨.ofNat 64 (s.memRead (iobufOffset a.addr) 8),
            by simp [iobufAccess, hb, hk]⟩))
        · exact .inr (.inr (.inr (.inr ⟨iobufOffset_of_legalAccess hl (by simpa using hr),
            by simp only [iobufAccess, hb, hk]; rfl⟩)))
  · exact .inl (if_neg hl)

end Sys2Proof.Machine
end

section
/-!
The register block seen by the host, the two resets and the computed views (10_state.md R40 to R55).
-/

namespace Sys2Proof.Machine

open Config

/-! ### The words the host reads -/

theorem getLsbD_bitAt (b : Bool) {i : Nat} (j : Nat) (hi : i < 64) :
    (bitAt b i).getLsbD j = (b && decide (j = i)) := by
  by_cases h : j = i
  · subst h; cases b <;> simp [bitAt, hi]
  · cases b <;> simp [bitAt, h]; omega

/-- A bit at its place is the bit times its power of two. -/
theorem toNat_bitAt (b : Bool) {i : Nat} (hi : i < 64) : (bitAt b i).toNat = 2 ^ i * b.toNat := by
  have h : 2 ^ i < 18446744073709551616 := Nat.pow_lt_pow_right (by decide : 1 < 2) hi
  cases b <;> simp [bitAt, Nat.shiftLeft_eq, h]

/-- `x` holds the number `n` in its low `i` bits and nothing above them. -/
def HoldsBelow {w : Nat} (x : BitVec w) (i n : Nat) : Prop := x.toNat = n ∧ n < 2 ^ i

/-- A field of `j` bits put in at place `i` adds its value times 2^i. -/
theorem HoldsBelow.or {w i j n k : Nat} {x y : BitVec w} (hx : HoldsBelow x i n)
    (hy : y.toNat = 2 ^ i * k) (hk : k < 2 ^ j) : HoldsBelow (x ||| y) (i + j) (n + 2 ^ i * k) := by
  obtain ⟨rfl, hn⟩ := hx
  constructor
  · rw [BitVec.toNat_or, hy, Nat.or_comm, ← Nat.two_pow_add_eq_or_of_lt hn, Nat.add_comm]
  · calc x.toNat + 2 ^ i * k < 2 ^ i + 2 ^ i * k := by omega
      _ = 2 ^ i * (k + 1) := by ring
      _ ≤ 2 ^ i * 2 ^ j := Nat.mul_le_mul_left _ hk
      _ = 2 ^ (i + j) := (Nat.pow_add 2 i j).symm

theorem HoldsBelow.or_bitAt {i n : Nat} {x : Word} (hx : HoldsBelow x i n) (b : Bool) (hi : i < 64) :
    HoldsBelow (x ||| bitAt b i) (i + 1) (n + 2 ^ i * b.toNat) :=
  hx.or (j := 1) (toNat_bitAt b hi) b.toNat_lt

theorem holdsBelow_bitAt_zero (b : Bool) : HoldsBelow (bitAt b 0) 1 b.toNat :=
  ⟨by simp [toNat_bitAt], b.toNat_lt⟩

/-- CTRL as a number (10_state.md R43). -/
theorem toNat_ctrlWord (s : State) : s.ctrlWord.toNat = s.doneIe.toNat + 2 * s.faultIe.toNat :=
  ((holdsBelow_bitAt_zero _).or_bitAt _ (by decide)).1

/-- STATUS as a number (10_state.md R44). -/
theorem toNat_statusWord {s : State} (hq : s.qcount ≤ 16) :
    s.statusWord.toNat = s.busy.toNat + 2 * s.status.fault.toNat + 4 * s.status.done.toNat +
      8 * s.status.none.toNat + 16 * s.status.decfail.toNat + 32 * s.status.cmdovf.toNat +
      64 * s.status.hostconf.toNat + 128 * s.status.buserr.toNat +
      256 * s.status.faultCode.toNat + 65536 * s.qcount := by
  have hcode : (s.status.faultCode.setWidth 64 <<< 8).toNat = 2 ^ 8 * s.status.faultCode.toNat := by
    have := s.status.faultCode.isLt
    simp [Nat.shiftLeft_eq]; omega
  have hcount : ((BitVec.ofNat 5 s.qcount).setWidth 64 <<< 16).toNat = 2 ^ 16 * s.qcount := by
    simp [Nat.shiftLeft_eq]; omega
  have hflags := (((((((holdsBelow_bitAt_zero s.busy).or_bitAt s.status.fault (by decide)).or_bitAt
    s.status.done (by decide)).or_bitAt s.status.none (by decide)).or_bitAt
    s.status.decfail (by decide)).or_bitAt s.status.cmdovf (by decide)).or_bitAt
    s.status.hostconf (by decide)).or_bitAt s.status.buserr (by decide)
  exact ((hflags.or (j := 8) hcode s.status.faultCode.isLt).or (j := 5) hcount (by omega)).1

/-- STATUS bit by bit (10_state.md R44). -/
theorem getLsbD_statusWord (s : State) (i : Nat) :
    s.statusWord.getLsbD i =
      ((s.busy && decide (i = 0)) || (s.status.fault && decide (i = 1)) ||
      (s.status.done && decide (i = 2)) || (s.status.none && decide (i = 3)) ||
      (s.status.decfail && decide (i = 4)) || (s.status.cmdovf && decide (i = 5)) ||
      (s.status.hostconf && decide (i = 6)) || (s.status.buserr && decide (i = 7)) ||
      (s.status.faultCode.setWidth 64 <<< 8).getLsbD i ||
      ((BitVec.ofNat 5 s.qcount).setWidth 64 <<< 16).getLsbD i) := by
  simp only [State.statusWord, BitVec.getLsbD_or, getLsbD_bitAt _ i (show 0 < 64 by decide),
    getLsbD_bitAt _ i (show 1 < 64 by decide), getLsbD_bitAt _ i (show 2 < 64 by decide),
    getLsbD_bitAt _ i (show 3 < 64 by decide), getLsbD_bitAt _ i (show 4 < 64 by decide),
    getLsbD_bitAt _ i (show 5 < 64 by decide), getLsbD_bitAt _ i (show 6 < 64 by decide),
    getLsbD_bitAt _ i (show 7 < 64 by decide)]

theorem toNat_append_eq_add {m n : Nat} (x : BitVec m) (y : BitVec n) :
    (x ++ y).toNat = 2 ^ n * x.toNat + y.toNat := by
  rw [BitVec.toNat_append, Nat.shiftLeft_eq, Nat.mul_comm, Nat.two_pow_add_eq_or_of_lt y.isLt]

/-- CFG as a number (10_state.md R42). -/
theorem toNat_cfgWord (s : State) :
    s.cfgWord.toNat = 0x0000060404001010 + 2 ^ 48 * s.params.paramId.toNat := by
  simp only [State.cfgWord, toNat_append_eq_add]
  simp
  omega

/-! ### Accesses to the register block -/

/-- An 8-byte aligned access below 0x0040 is legal and reaches the register block (20_memory.md R82). -/
theorem step_of_register_access {s : State} {kind : AccessKind} {addr : BitVec 16} {data : Word}
    {rest : List Input} (h : s.inputs = .host ⟨kind, addr, .b8, data⟩ :: rest) (ha : addr.toNat % 8 = 0)
    (hlt : addr.toNat < 0x0040) :
    step s = .next (registerAccess ⟨kind, addr, .b8, data⟩ { s with inputs := rest }) := by
  rw [step_of_host_turn h]
  simp [hostAccess, legalAccess, inRegisterBlock, ha, hlt]

/-! ### The obligations -/

/-- Settles O50: the write reaches `clearStatus`, whose bits are read off `getLsbD_statusWord`. -/
theorem statusWriteClearsStickyBits : Obligations.StatusWriteClearsStickyBits := by
  intro s data rest h
  refine ⟨_, step_of_register_access h (by decide) (by decide), ?_, ?_, rfl⟩
  · intro i h2 h7
    obtain rfl | rfl | rfl | rfl | rfl | rfl :
      i = 2 ∨ i = 3 ∨ i = 4 ∨ i = 5 ∨ i = 6 ∨ i = 7 := by omega
    all_goals
      rw [getLsbD_statusWord, getLsbD_statusWord]
      simp [registerAccess, writeRegister, clearStatus]
  · intro i hi
    have h2 : i ≠ 2 ∧ i ≠ 3 ∧ i ≠ 4 ∧ i ≠ 5 ∧ i ≠ 6 ∧ i ≠ 7 := by omega
    rw [getLsbD_statusWord, getLsbD_statusWord]
    simp only [h2, decide_false, Bool.and_false, Bool.or_false]
    rfl

/-- Settles O51: the word read is `readRegister`'s, and each register's word is one of the lemmas above. -/
theorem registerReadsReturnTheirFields : Obligations.RegisterReadsReturnTheirFields := by
  intro s addr data rest hq ha hlt h
  refine ⟨readRegister s addr, ?_, ?_, ?_, ?_, ?_, ?_, ?_, ?_, ?_⟩
  · rw [step_of_register_access h ha hlt]
    rfl
  · rintro rfl; rfl
  · rintro rfl; exact toNat_cfgWord s
  · rintro rfl; exact toNat_ctrlWord s
  · rintro rfl; exact toNat_statusWord hq
  · rintro rfl; rfl
  · rintro rfl; rfl
  · rintro rfl; rfl
  · rintro rfl; rfl

/-- What a write of a register other than a soft reset leaves alone (10_state.md R31, R53). -/
theorem writeRegister_frame (s : State) {addr : BitVec 16} {data : Word}
    (hsrst : ¬(addr = 0x0010 ∧ data.getLsbD 9 = true)) :
    let t := writeRegister s addr data
    t.v = s.v ∧ t.cmdCount = s.cmdCount ∧ t.faultInfo = s.faultInfo ∧ t.inflight = s.inflight ∧
      t.params = s.params ∧ t.hardResets = s.hardResets := by
  obtain ⟨ha, h⟩ | ⟨-, h⟩ | ⟨-, h⟩ | h := writeRegister_cases s addr data <;> simp only [h]
  · obtain ⟨h9, h⟩ | ⟨d, f, h⟩ | ⟨d, f, h⟩ := writeCtrl_cases s data
    · exact absurd ⟨ha, h9⟩ hsrst
    · simp [h]
    · simp [h]
  · simp
  · obtain ⟨-, -, c, h⟩ | h := writeCmd_cases s data <;> simp [h]
  · simp

/-- Settles O52: `hostAccess_cases` names every outcome of a host turn, and only a soft reset writes one
of these fields. -/
theorem hostTurnsReachNoValueRegister : Obligations.HostTurnsReachNoValueRegister := by
  intro s a rest h
  refine ⟨fun t ht hsrst => ?_, fun hk hsize ha => ?_⟩
  · rw [step_of_host_turn h] at ht
    obtain rfl : hostAccess a { s with inputs := rest } = t := by simpa using ht
    obtain h | h | ⟨v, h⟩ | ⟨hk, -, h⟩ | ⟨-, h⟩ := hostAccess_cases a { s with inputs := rest } <;>
      rw [h]
    · simp
    · simp
    · simp
    · exact writeRegister_frame _ fun hs => hsrst ⟨hk, hs⟩
    · simp
  · obtain ⟨kind, addr, size, data⟩ := a
    simp only [List.mem_cons, List.not_mem_nil, or_false] at hk hsize ha
    subst hk hsize
    obtain rfl | rfl | rfl | rfl | rfl := ha <;>
      exact (step_of_register_access h (by decide) (by decide)).trans rfl

/-- Settles O53: both resets are written out in the model; CTRL.SRST reaches `softReset` whatever the
other bits hold. -/
theorem resetsRestoreTheResetValues : Obligations.ResetsRestoreTheResetValues := by
  refine ⟨⟨fun r => State.reg_reset_v r, rfl, rfl, rfl, by decide, rfl, rfl, rfl, rfl⟩,
    fun s rest => ⟨?_, ?_⟩⟩
  · intro data h9 h
    rw [step_of_register_access h (by decide) (by decide)]
    simp [registerAccess, writeRegister, writeCtrl, h9, softReset, State.answer]
  · intro h
    exact step_of_hard_reset h

/-- Settles O54. -/
theorem interruptAndBusyFollowTheState : Obligations.InterruptAndBusyFollowTheState := by
  intro s
  constructor
  · simp [State.irq]
  · simp [State.busy, Option.isSome_iff_ne_none]

end Sys2Proof.Machine
end

section
/-!
What no step does: it never writes the parameter storage, and it clears an event flag only by a STATUS
write or a reset (10_state.md R44, R53).
-/

namespace Sys2Proof.Machine

open Config

/-- Every event flag set in `a` is set in `b`. -/
structure Status.FlagsStay (a b : Status) : Prop where
  done : a.done = true → b.done = true
  none : a.none = true → b.none = true
  decfail : a.decfail = true → b.decfail = true
  cmdovf : a.cmdovf = true → b.cmdovf = true
  hostconf : a.hostconf = true → b.hostconf = true
  buserr : a.buserr = true → b.buserr = true

theorem Status.FlagsStay.refl (a : Status) : a.FlagsStay a := ⟨id, id, id, id, id, id⟩

/-- A commit writes a register or IOBUF, and of the other fields at most NONE or DECFAIL. -/
theorem applyEffect_frame (e : Effect) (s : State) :
    (applyEffect e s).params = s.params ∧ (applyEffect e s).fifo = s.fifo ∧
      s.status.FlagsStay (applyEffect e s).status ∧ (applyEffect e s).status.fault = s.status.fault ∧
      (applyEffect e s).status.faultCode = s.status.faultCode := by
  cases e with
  | nothing => exact ⟨rfl, rfl, .refl _, rfl, rfl⟩
  | put d x => exact ⟨rfl, rfl, .refl _, rfl, rfl⟩
  | noneResult d => exact ⟨rfl, rfl, ⟨id, fun _ => rfl, id, id, id, id⟩, rfl, rfl⟩
  | decodeFailure d => exact ⟨rfl, rfl, ⟨id, id, fun _ => rfl, id, id, id⟩, rfl, rfl⟩
  | store off chunks =>
    rw [applyEffect, State.storeChunks_eq]
    exact ⟨rfl, rfl, .refl _, rfl, rfl⟩

/-- Retiring clears no flag. -/
theorem flagsStay_retire (s : State) : s.status.FlagsStay (retire s).status :=
  ⟨fun h => by simp [h], id, id, id, id, id⟩

theorem engineStep_params_and_flags {s t : State} (h : engineStep s = .next t) :
    t.params = s.params ∧ s.status.FlagsStay t.status := by
  obtain rfl | ⟨w, rest, -, -, -, rfl⟩ | ⟨c, rfl⟩ | ⟨w, i, e, -, -, -, rfl⟩ := engineStep_cases h
  · exact ⟨rfl, .refl _⟩
  · exact ⟨rfl, .refl _⟩
  · exact ⟨rfl, id, id, id, id, id, id⟩
  · obtain ⟨hp, -, hflags, -⟩ := applyEffect_frame e s
    have hr := flagsStay_retire (applyEffect e s)
    exact ⟨hp, hr.done ∘ hflags.done, hr.none ∘ hflags.none, hr.decfail ∘ hflags.decfail,
      hr.cmdovf ∘ hflags.cmdovf, hr.hostconf ∘ hflags.hostconf, hr.buserr ∘ hflags.buserr⟩

theorem writeRegister_params (s : State) (addr : BitVec 16) (data : Word) :
    (writeRegister s addr data).params = s.params := by
  obtain ⟨-, h⟩ | ⟨-, h⟩ | ⟨-, h⟩ | h := writeRegister_cases s addr data <;> simp only [h]
  · obtain ⟨-, h⟩ | ⟨d, f, h⟩ | ⟨d, f, h⟩ := writeCtrl_cases s data <;> simp [h]
  · obtain ⟨-, -, c, h⟩ | h := writeCmd_cases s data <;> simp [h]

/-- A register write other than to STATUS and of SRST clears no flag (10_state.md R44). -/
theorem writeRegister_flagsStay (s : State) {addr : BitVec 16} {data : Word} (hstatus : addr ≠ 0x0018)
    (hsrst : ¬(addr = 0x0010 ∧ data.getLsbD 9 = true)) :
    s.status.FlagsStay (writeRegister s addr data).status := by
  obtain ⟨ha, h⟩ | ⟨ha, -⟩ | ⟨-, h⟩ | h := writeRegister_cases s addr data
  · rw [h]
    obtain ⟨h9, -⟩ | ⟨d, f, h⟩ | ⟨d, f, h⟩ := writeCtrl_cases s data
    · exact absurd ⟨ha, h9⟩ hsrst
    · rw [h]; exact .refl _
    · rw [h]; exact ⟨id, id, id, id, id, id⟩
  · exact absurd ha hstatus
  · rw [h]
    obtain ⟨-, -, c, h⟩ | h := writeCmd_cases s data <;> rw [h]
    · exact .refl _
    · exact ⟨id, id, id, fun _ => rfl, id, id⟩
  · rw [h]; exact .refl _

theorem hostAccess_params (a : Access) (s : State) : (hostAccess a s).params = s.params := by
  obtain h | h | ⟨v, h⟩ | ⟨-, -, h⟩ | ⟨-, h⟩ := hostAccess_cases a s <;> rw [h] <;>
    simp [writeRegister_params]

theorem hostAccess_flagsStay {a : Access} {s : State} (hwrite : a.kind = .write →
      a.addr ≠ 0x0018 ∧ ¬(a.addr = 0x0010 ∧ a.wdata.getLsbD 9 = true)) :
    s.status.FlagsStay (hostAccess a s).status := by
  obtain h | h | ⟨v, h⟩ | ⟨hk, -, h⟩ | ⟨-, h⟩ := hostAccess_cases a s <;> rw [h]
  · exact ⟨id, id, id, id, id, fun _ => rfl⟩
  · exact ⟨id, id, id, id, fun _ => rfl, id⟩
  · exact .refl _
  · exact writeRegister_flagsStay s (hwrite hk).1 (hwrite hk).2
  · exact .refl _

/-- Settles O58: the three turns of `step_cases`; a hard reset is excluded for the flags. -/
theorem stickyBitsStayAndParametersNeverChange :
    Obligations.StickyBitsStayAndParametersNeverChange := by
  intro s t h
  obtain ⟨rest, hi, rfl⟩ | ⟨a, rest, hi, rfl⟩ | h := step_cases h
  · exact ⟨rfl, fun hreset _ => absurd hi (hreset rest)⟩
  · refine ⟨hostAccess_params a _, fun _ hhost => ?_⟩
    obtain ⟨h1, h2, h3, h4, h5, h6⟩ := hostAccess_flagsStay (s := s.nextTurn) (hhost a rest hi)
    exact ⟨h1, h2, h3, h4, h5, h6⟩
  · obtain ⟨hp, h1, h2, h3, h4, h5, h6⟩ := engineStep_params_and_flags h
    exact ⟨hp, fun _ _ => ⟨h1, h2, h3, h4, h5, h6⟩⟩

/-- No step writes the parameter storage (10_state.md R53). -/
theorem step_params {s t : State} (h : step s = .next t) : t.params = s.params :=
  (stickyBitsStayAndParametersNeverChange s t h).1

end Sys2Proof.Machine
end

section
/-!
SUPPORT. Which values the commands can write. A predicate on values that the functions of the fields and
groups keep, and that every loaded value has, holds of every value a command writes (`Commits.put_kept`).
The register invariants of 10_state.md R35 are two such predicates.
-/

namespace Sys2Proof.Machine

open Config

/-- The functions of a field keep a predicate on its elements. -/
structure FieldOps.Keeps {K : Type} (F : FieldOps K) (ok : K → Prop) : Prop where
  zero : ok F.zero
  one : ok F.one
  add : ∀ a b, ok a → ok b → ok (F.add a b)
  sub : ∀ a b, ok a → ok b → ok (F.sub a b)
  dbl : ∀ a, ok a → ok (F.dbl a)
  neg : ∀ a, ok a → ok (F.neg a)
  mul : ∀ a b, ok a → ok b → ok (F.mul a b)
  sqr : ∀ a, ok a → ok (F.sqr a)
  inv : ∀ a b, ok a → F.inv a = some b → ok b

/-- The functions of a curve group keep a predicate on its affine points and one on its projective or
extended points. -/
structure GroupOps.Keeps {A E : Type} (G : GroupOps A E) (okA : A → Prop) (okE : E → Prop) : Prop where
  identityA : okA G.identityA
  identityE : okE G.identityE
  toProj : ∀ a, okA a → okE (G.toProj a)
  toAff : ∀ p a, okE p → G.toAff p = some a → okA a
  add : ∀ p q, okE p → okE q → okE (G.add p q)
  dbl : ∀ p, okE p → okE (G.dbl p)
  negE : ∀ p, okE p → okE (G.negE p)
  negA : ∀ a b, okA a → G.negA a = some b → okA b

/-- The scalar product of a kept point is kept: an induction over the NAF digits (46_scalar_multiplier.md
R403). -/
theorem GroupOps.Keeps.smul {A E : Type} {G : GroupOps A E} {okA : A → Prop} {okE : E → Prop}
    (h : G.Keeps okA okE) {p : E} (hp : okE p) (k : Nat) : okE (smul G p k) := by
  have hstep : ∀ d acc, okE acc → okE (smulStep G p (G.negE p) d acc) := by
    intro d acc hacc
    have hdbl := h.dbl acc hacc
    cases d
    · exact h.add _ _ hdbl (h.negE p hp)
    · exact hdbl
    · exact h.add _ _ hdbl hp
  unfold Machine.smul
  induction naf k with
  | nil => exact h.identityE
  | cons d ds ih => exact hstep d _ ih

/-- The predicate `Q` on values is kept by every function a command of the state can apply. -/
structure ValuesKept (s : State) (Q : Value → Prop) : Prop where
  bool : ∀ b, Q (.bool b)
  fr : (frOps s.params).Keeps fun m => Q (.fr m)
  fq : (fqOps s.params).Keeps fun m => Q (.fq m)
  fq2 : (fq2Ops s.params).Keeps fun a => Q (.fq2 a)
  fq6 : (fq6Ops s.params).Keeps fun a => Q (.fq6 a)
  fq12 : (fq12Ops s.params).Keeps fun a => Q (.fq12 a)
  g1 : (g1Ops s.params).Keeps (fun a => Q (.g1a a)) fun p => Q (.g1p p)
  g2 : (g2Ops s.params).Keeps (fun a => Q (.g2a a)) fun p => Q (.g2p p)
  ed : (edOps s.params).Keeps (fun a => Q (.eda a)) fun p => Q (.ede p)
  reduce : ∀ x y, Q x → reduceValue s.params x = .ok y → Q y
  mulnr : ∀ x y, Q x → mulNonResidue s.params x = .ok y → Q y
  conj : ∀ x y, Q x → conjugate s.params x = .ok y → Q y
  frob : ∀ i x y, Q x → frobenius s.params i x = .ok y → Q y
  load : ∀ t off x, decodeCanonical s t off = some x → Q x
  rawLoad : ∀ t off x, decodeRaw s t off = some x → Q x

section

variable {s : State} {Q : Value → Prop} (h : ValuesKept s Q)

include h

theorem ValuesKept.fieldBinary {op : (K : Type) → FieldOps K → K → K → K} {x y z : Value}
    (hop : ∀ (K : Type) (F : FieldOps K) (ok : K → Prop), F.Keeps ok →
      ∀ a b, ok a → ok b → ok (op K F a b))
    (hx : Q x) (hy : Q y) (hz : fieldBinary s.params op x y = .ok z) : Q z := by
  unfold Machine.fieldBinary at hz
  split at hz
  next => cases hz; exact hop _ _ _ h.fr _ _ hx hy
  next => cases hz; exact hop _ _ _ h.fq _ _ hx hy
  next => cases hz; exact hop _ _ _ h.fq2 _ _ hx hy
  next => cases hz; exact hop _ _ _ h.fq6 _ _ hx hy
  next => cases hz; exact hop _ _ _ h.fq12 _ _ hx hy
  next => cases hz

theorem ValuesKept.fieldUnary {op : (K : Type) → FieldOps K → K → K} {x z : Value}
    (hop : ∀ (K : Type) (F : FieldOps K) (ok : K → Prop), F.Keeps ok → ∀ a, ok a → ok (op K F a))
    (hx : Q x) (hz : fieldUnary s.params op x = .ok z) : Q z := by
  unfold Machine.fieldUnary at hz
  split at hz
  next => cases hz; exact hop _ _ _ h.fr _ hx
  next => cases hz; exact hop _ _ _ h.fq _ hx
  next => cases hz; exact hop _ _ _ h.fq2 _ hx
  next => cases hz; exact hop _ _ _ h.fq6 _ hx
  next => cases hz; exact hop _ _ _ h.fq12 _ hx
  next => cases hz

theorem ValuesKept.fieldInverse {x z : Value} (hx : Q x)
    (hz : fieldInverse s.params x = .ok (some z)) : Q z := by
  unfold Machine.fieldInverse at hz
  split at hz
  next => obtain ⟨b, hb, rfl⟩ := Option.map_eq_some_iff.1 (Except.ok.inj hz); exact h.fr.inv _ b hx hb
  next => obtain ⟨b, hb, rfl⟩ := Option.map_eq_some_iff.1 (Except.ok.inj hz); exact h.fq.inv _ b hx hb
  next => obtain ⟨b, hb, rfl⟩ := Option.map_eq_some_iff.1 (Except.ok.inj hz); exact h.fq2.inv _ b hx hb
  next => obtain ⟨b, hb, rfl⟩ := Option.map_eq_some_iff.1 (Except.ok.inj hz); exact h.fq6.inv _ b hx hb
  next => obtain ⟨b, hb, rfl⟩ := Option.map_eq_some_iff.1 (Except.ok.inj hz); exact h.fq12.inv _ b hx hb
  next => cases hz

theorem ValuesKept.constValue {t : TCode} {k : BitVec 10} {z : Value}
    (hz : constValue s.params t k = .ok z) : Q z := by
  have pick : ∀ {K : Type} {F : FieldOps K} {ok : K → Prop}, F.Keeps ok →
      ok (if k = 0 then F.zero else F.one) := fun hF => by split; exacts [hF.zero, hF.one]
  unfold Machine.constValue at hz
  split at hz <;> cases hz
  · exact h.bool _
  · exact pick h.fr
  · exact pick h.fq
  · exact pick h.fq2
  · exact pick h.fq6
  · exact pick h.fq12
  · exact h.g1.identityA
  · exact h.g1.identityE
  · exact h.g2.identityA
  · exact h.g2.identityE
  · exact h.ed.identityA
  · exact h.ed.identityE

theorem ValuesKept.g1Operand {x : Value} {p : ProjPoint Fq} (hx : Q x)
    (hp : g1Operand s.params x = .ok p) : Q (.g1p p) := by
  unfold Machine.g1Operand at hp
  split at hp <;> cases hp
  · exact hx
  · exact h.g1.toProj _ hx

theorem ValuesKept.g2Operand {x : Value} {p : ProjPoint Fq2} (hx : Q x)
    (hp : g2Operand s.params x = .ok p) : Q (.g2p p) := by
  unfold Machine.g2Operand at hp
  split at hp <;> cases hp
  · exact hx
  · exact h.g2.toProj _ hx

theorem ValuesKept.edOperand {x : Value} {p : EdExtended} (hx : Q x)
    (hp : edOperand s.params x = .ok p) : Q (.ede p) := by
  unfold Machine.edOperand at hp
  split at hp <;> cases hp
  · exact hx
  · exact h.ed.toProj _ hx

theorem ValuesKept.pointUnary {op : (A E : Type) → GroupOps A E → E → E} {t : TCode} {x z : Value}
    (hop : ∀ (A E : Type) (G : GroupOps A E) (okA : A → Prop) (okE : E → Prop), G.Keeps okA okE →
      ∀ p, okE p → okE (op A E G p))
    (hx : Q x) (hz : pointUnary s.params op t x = .ok z) : Q z := by
  unfold Machine.pointUnary at hz
  split at hz
  next =>
    obtain ⟨p, hp, rfl⟩ := map_eq_ok.1 hz
    exact hop _ _ _ _ _ h.g1 _ (h.g1Operand hx hp)
  next =>
    obtain ⟨p, hp, rfl⟩ := map_eq_ok.1 hz
    exact hop _ _ _ _ _ h.g2 _ (h.g2Operand hx hp)
  next =>
    obtain ⟨p, hp, rfl⟩ := map_eq_ok.1 hz
    exact hop _ _ _ _ _ h.ed _ (h.edOperand hx hp)
  next => cases hz

theorem ValuesKept.pointBinary {op : (A E : Type) → GroupOps A E → E → E → E} {t : TCode}
    {x y z : Value}
    (hop : ∀ (A E : Type) (G : GroupOps A E) (okA : A → Prop) (okE : E → Prop), G.Keeps okA okE →
      ∀ p q, okE p → okE q → okE (op A E G p q))
    (hx : Q x) (hy : Q y) (hz : pointBinary s.params op t x y = .ok z) : Q z := by
  unfold Machine.pointBinary at hz
  split at hz
  next =>
    obtain ⟨p, hp, hz⟩ := bind_eq_ok.1 hz
    obtain ⟨q, hq, rfl⟩ := map_eq_ok.1 hz
    exact hop _ _ _ _ _ h.g1 _ _ (h.g1Operand hx hp) (h.g1Operand hy hq)
  next =>
    obtain ⟨p, hp, hz⟩ := bind_eq_ok.1 hz
    obtain ⟨q, hq, rfl⟩ := map_eq_ok.1 hz
    exact hop _ _ _ _ _ h.g2 _ _ (h.g2Operand hx hp) (h.g2Operand hy hq)
  next =>
    obtain ⟨p, hp, hz⟩ := bind_eq_ok.1 hz
    obtain ⟨q, hq, rfl⟩ := map_eq_ok.1 hz
    exact hop _ _ _ _ _ h.ed _ _ (h.edOperand hx hp) (h.edOperand hy hq)
  next => cases hz

theorem ValuesKept.pointNegate {x z : Value} (hx : Q x)
    (hz : pointNegate s.params x = .ok (some z)) : Q z := by
  unfold Machine.pointNegate at hz
  split at hz
  next => cases hz; exact h.g1.negE _ hx
  next => cases hz; exact h.g2.negE _ hx
  next => cases hz; exact h.ed.negE _ hx
  next => obtain ⟨b, hb, rfl⟩ := Option.map_eq_some_iff.1 (Except.ok.inj hz); exact h.g1.negA _ b hx hb
  next => obtain ⟨b, hb, rfl⟩ := Option.map_eq_some_iff.1 (Except.ok.inj hz); exact h.g2.negA _ b hx hb
  next => obtain ⟨b, hb, rfl⟩ := Option.map_eq_some_iff.1 (Except.ok.inj hz); exact h.ed.negA _ b hx hb
  next => cases hz

theorem ValuesKept.pointToProj {x z : Value} (hx : Q x) (hz : pointToProj s.params x = .ok z) : Q z := by
  unfold Machine.pointToProj at hz
  split at hz <;> cases hz
  · exact h.g1.toProj _ hx
  · exact h.g2.toProj _ hx
  · exact h.ed.toProj _ hx

theorem ValuesKept.pointToAff {x z : Value} (hx : Q x)
    (hz : pointToAff s.params x = .ok (some z)) : Q z := by
  unfold Machine.pointToAff at hz
  split at hz
  next => obtain ⟨b, hb, rfl⟩ := Option.map_eq_some_iff.1 (Except.ok.inj hz); exact h.g1.toAff _ b hx hb
  next => obtain ⟨b, hb, rfl⟩ := Option.map_eq_some_iff.1 (Except.ok.inj hz); exact h.g2.toAff _ b hx hb
  next => obtain ⟨b, hb, rfl⟩ := Option.map_eq_some_iff.1 (Except.ok.inj hz); exact h.ed.toAff _ b hx hb
  next => cases hz

/-- Every value a command writes has a kept predicate that its operands have. -/
theorem Commits.put_kept {i : Instr} {d : Reg} {x : Value} (hc : Commits s i (.put d x))
    (hs : ∀ r, s.reg r ≠ .empty → Q (s.reg r)) : Q x := by
  have operand : ∀ {r ts}, Operand s r ts → Q (s.reg r) := fun hr => hs _ hr.ne_empty
  cases i with
  | nop => cases hc
  | ld t d off => obtain ⟨-, -, he⟩ := hc; exact h.load _ _ _ (put_eq_putOrDecfail.1 he).2
  | st t d off => obtain ⟨-, -, -, he⟩ := hc; cases he
  | ldm t d off => obtain ⟨-, -, he⟩ := hc; exact h.rawLoad _ _ _ (put_eq_putOrDecfail.1 he).2
  | stm t d off => obtain ⟨-, -, -, he⟩ := hc; cases he
  | mov t d a => obtain ⟨-, ha, he⟩ := hc; cases he; exact operand ha
  | const t d k => obtain ⟨-, -, y, hy, he⟩ := hc; cases he; exact h.constValue hy
  | sel t d a b c =>
    obtain ⟨-, ha, hb, -, z, -, he⟩ := hc
    cases he
    cases z
    · exact operand ha
    · exact operand hb
  | add t d a b =>
    obtain ⟨-, ha, hb, y, hy, he⟩ := hc
    cases he
    exact h.fieldBinary (fun _ _ _ hF => hF.add) (operand ha) (operand hb) hy
  | sub t d a b =>
    obtain ⟨-, ha, hb, y, hy, he⟩ := hc
    cases he
    exact h.fieldBinary (fun _ _ _ hF => hF.sub) (operand ha) (operand hb) hy
  | mul t d a b =>
    obtain ⟨-, ha, hb, y, hy, he⟩ := hc
    cases he
    exact h.fieldBinary (fun _ _ _ hF => hF.mul) (operand ha) (operand hb) hy
  | dbl t d a =>
    obtain ⟨-, ha, y, hy, he⟩ := hc
    cases he
    exact h.fieldUnary (fun _ _ _ hF => hF.dbl) (operand ha) hy
  | neg t d a =>
    obtain ⟨-, ha, y, hy, he⟩ := hc
    cases he
    exact h.fieldUnary (fun _ _ _ hF => hF.neg) (operand ha) hy
  | sqr t d a =>
    obtain ⟨-, ha, y, hy, he⟩ := hc
    cases he
    exact h.fieldUnary (fun _ _ _ hF => hF.sqr) (operand ha) hy
  | inv t d a =>
    obtain ⟨-, ha, o, ho, he⟩ := hc
    exact h.fieldInverse (operand ha) ((put_eq_putOrNone.1 he).2 ▸ ho)
  | mred t d a => obtain ⟨-, ha, y, hy, he⟩ := hc; cases he; exact h.reduce _ _ (operand ha) hy
  | eq t d a b => obtain ⟨-, -, -, z, -, he⟩ := hc; cases he; exact h.bool z
  | iszero t d a => obtain ⟨-, -, z, -, he⟩ := hc; cases he; exact h.bool z
  | isone t d a => obtain ⟨-, -, z, -, he⟩ := hc; cases he; exact h.bool z
  | mulnr t d a => obtain ⟨-, ha, y, hy, he⟩ := hc; cases he; exact h.mulnr _ _ (operand ha) hy
  | conj t d a => obtain ⟨-, ha, y, hy, he⟩ := hc; cases he; exact h.conj _ _ (operand ha) hy
  | frob t d a i => obtain ⟨-, -, ha, y, hy, he⟩ := hc; cases he; exact h.frob _ _ _ (operand ha) hy
  | padd t d a b =>
    obtain ⟨-, ha, hb, y, hy, he⟩ := hc
    cases he
    exact h.pointBinary (fun _ _ _ _ _ hG => hG.add) (operand ha) (operand hb) hy
  | pdbl t d a =>
    obtain ⟨-, ha, y, hy, he⟩ := hc
    cases he
    exact h.pointUnary (fun _ _ _ _ _ hG => hG.dbl) (operand ha) hy
  | pneg t d a =>
    obtain ⟨-, ha, o, ho, he⟩ := hc
    exact h.pointNegate (operand ha) ((put_eq_putOrNone.1 he).2 ▸ ho)
  | psmul t d a b =>
    obtain ⟨-, ha, -, k, -, y, hy, he⟩ := hc
    cases he
    exact h.pointUnary (fun _ _ _ _ _ hG _ hp => hG.smul hp k) (operand ha) hy
  | toproj t d a => obtain ⟨-, ha, y, hy, he⟩ := hc; cases he; exact h.pointToProj (operand ha) hy
  | toaff t d a =>
    obtain ⟨-, ha, o, ho, he⟩ := hc
    exact h.pointToAff (operand ha) ((put_eq_putOrNone.1 he).2 ▸ ho)
  | peq t d a b => obtain ⟨-, -, -, z, -, he⟩ := hc; cases he; exact h.bool z
  | isid t d a => obtain ⟨-, -, z, -, he⟩ := hc; cases he; exact h.bool z
  | oncurve t d a => obtain ⟨-, -, z, -, he⟩ := hc; cases he; exact h.bool z

end

end Sys2Proof.Machine
end

section
/-!
SUPPORT. The base fields read modulo P_F: Montgomery reduction by limbs is exact, and the canonical raw
integers with the functions of 41_field_kernel.md are the ring of integers modulo P_F, `m` standing for
m·R_F⁻¹ (R201 to R212).
-/

namespace Sys2Proof.Machine

open Config

/-! ### Readings -/

/-- `φ` reads the elements of a field's functions that satisfy `ok` as a commutative ring: a bijection
that the functions commute with (41_field_kernel.md R216). -/
structure FieldOps.Reads {K L : Type} [CommRing L] (F : FieldOps K) (ok : K → Prop) (φ : K → L) :
    Prop where
  keeps : F.Keeps ok
  inj : ∀ a b, ok a → ok b → φ a = φ b → a = b
  surj : ∀ z, ∃ a, ok a ∧ φ a = z
  zero : φ F.zero = 0
  one : φ F.one = 1
  add : ∀ a b, ok a → ok b → φ (F.add a b) = φ a + φ b
  sub : ∀ a b, ok a → ok b → φ (F.sub a b) = φ a - φ b
  dbl : ∀ a, ok a → φ (F.dbl a) = φ a + φ a
  neg : ∀ a, ok a → φ (F.neg a) = -φ a
  mul : ∀ a b, ok a → ok b → φ (F.mul a b) = φ a * φ b
  sqr : ∀ a, ok a → φ (F.sqr a) = φ a * φ a
  eq_iff : ∀ a b, F.eq a b = true ↔ a = b
  isZero_iff : ∀ a, F.isZero a = true ↔ a = F.zero
  isOne_iff : ∀ a, F.isOne a = true ↔ a = F.one

/-! ### The constants of a base field -/

/-- The equations of 00_scope.md R6 and R8 on a base field, with a whole number of limbs. -/
structure BaseFieldLaws {w : Nat} (F : BaseField w) : Prop where
  limbs : 64 * limbCount w = w
  three_le : 3 ≤ F.p.toNat
  odd : F.p.toNat % 2 = 1
  inv : F.p.toNat * F.inv.toNat % 2 ^ 64 = 2 ^ 64 - 1
  r2 : F.r2.toNat = 2 ^ w * 2 ^ w % F.p.toNat
  one : F.one.toNat = 2 ^ w % F.p.toNat
  chain : chainValid F = true

theorem baseFieldLaws_of_ok {w : Nat} {F : BaseField w} (hw : w = 256 ∨ w = 384)
    (h : baseFieldOk F = true) : BaseFieldLaws F := by
  simp only [baseFieldOk, Bool.and_eq_true, decide_eq_true_eq] at h
  obtain ⟨⟨⟨⟨⟨h3, hodd⟩, hinv⟩, hr2⟩, hone⟩, hchain⟩ := h
  refine ⟨?_, h3, hodd, hinv, hr2, hone, hchain⟩
  obtain rfl | rfl := hw <;> rfl

theorem canonical_iff {w : Nat} {F : BaseField w} {m : BitVec w} :
    canonical F m = true ↔ m.toNat < F.p.toNat := by
  simp [canonical]

section

variable {w : Nat} {F : BaseField w}

/-! ### The reduction loop -/

/-- One round of the loop clears one more limb, keeps the residue and adds less than 2^64 multiples of
the modulus at the limb's place (41_field_kernel.md R207). -/
theorem montRound_spec (hF : BaseFieldLaws F) {t i : Nat} (h : 2 ^ (64 * i) ∣ t) :
    2 ^ (64 * (i + 1)) ∣ montRound F t i ∧ montRound F t i ≡ t [MOD F.p.toNat] ∧
      montRound F t i + 2 ^ (64 * i) * F.p.toNat ≤ t + 2 ^ (64 * (i + 1)) * F.p.toNat := by
  obtain ⟨k, rfl⟩ := h
  have hlimb : (2 ^ (64 * i) * k) >>> (64 * i) = k := by
    rw [Nat.shiftRight_eq_div_pow, Nat.mul_div_cancel_left _ (Nat.two_pow_pos _)]
  set m := k % 2 ^ 64 * F.inv.toNat % 2 ^ 64 with hm
  have hround : montRound F (2 ^ (64 * i) * k) i = 2 ^ (64 * i) * (k + m * F.p.toNat) := by
    rw [montRound, hlimb, ← hm]; ring
  have hpow : 2 ^ (64 * (i + 1)) = 2 ^ (64 * i) * 2 ^ 64 := by rw [← Nat.pow_add]; ring_nf
  have hcleared : 2 ^ 64 ∣ k + m * F.p.toNat := by
    have hmod : k + m * F.p.toNat ≡ k + k * (2 ^ 64 - 1) [MOD 2 ^ 64] := by
      refine Nat.ModEq.add_left k ?_
      calc m * F.p.toNat ≡ k * F.inv.toNat * F.p.toNat [MOD 2 ^ 64] :=
            Nat.ModEq.mul_right _ ((Nat.mod_modEq _ _).trans (Nat.ModEq.mul_right _ (Nat.mod_modEq _ _)))
        _ = k * (F.p.toNat * F.inv.toNat) := by ring
        _ ≡ k * (2 ^ 64 - 1) [MOD 2 ^ 64] :=
            Nat.ModEq.mul_left k (hF.inv.trans (Nat.mod_eq_of_lt (by decide)).symm)
    refine (Nat.modEq_zero_iff_dvd).1 (hmod.trans ?_)
    exact (Nat.modEq_zero_iff_dvd).2 ⟨k, by omega⟩
  refine ⟨?_, ?_, ?_⟩
  · rw [hround, hpow]
    exact Nat.mul_dvd_mul_left _ hcleared
  · have : montRound F (2 ^ (64 * i) * k) i = 2 ^ (64 * i) * k + F.p.toNat * (2 ^ (64 * i) * m) := by
      rw [hround]; ring
    rw [this]
    exact Nat.add_modulus_mul_modEq_iff.2 rfl
  · have hlt : m + 1 ≤ 2 ^ 64 := Nat.mod_lt _ (by decide)
    calc montRound F (2 ^ (64 * i) * k) i + 2 ^ (64 * i) * F.p.toNat
        = 2 ^ (64 * i) * k + 2 ^ (64 * i) * ((m + 1) * F.p.toNat) := by rw [hround]; ring
      _ ≤ 2 ^ (64 * i) * k + 2 ^ (64 * i) * (2 ^ 64 * F.p.toNat) := by gcongr
      _ = 2 ^ (64 * i) * k + 2 ^ (64 * (i + 1)) * F.p.toNat := by rw [hpow]; ring

/-- The loop after `n` rounds (41_field_kernel.md R207). -/
theorem montLoop_spec (hF : BaseFieldLaws F) (t n : Nat) :
    let u := (List.range n).foldl (montRound F) t
    2 ^ (64 * n) ∣ u ∧ u ≡ t [MOD F.p.toNat] ∧ u + F.p.toNat ≤ t + 2 ^ (64 * n) * F.p.toNat := by
  induction n with
  | zero => simp [Nat.ModEq]
  | succ n ih =>
    obtain ⟨hdvd, hmod, hle⟩ := ih
    obtain ⟨hdvd', hmod', hle'⟩ := montRound_spec hF hdvd
    simp only [List.range_succ, List.foldl_append, List.foldl_cons, List.foldl_nil]
    exact ⟨hdvd', hmod'.trans hmod, by omega⟩

/-- Montgomery reduction is exact: the result is below the modulus and is t·R_F⁻¹ (41_field_kernel.md
R207, R209). -/
theorem montReduce_spec (hF : BaseFieldLaws F) {t : Nat} (ht : t < F.p.toNat * 2 ^ w) :
    (montReduce F t).toNat < F.p.toNat ∧ (montReduce F t).toNat * 2 ^ w ≡ t [MOD F.p.toNat] := by
  obtain ⟨⟨u, hu⟩, hmod, hle⟩ := montLoop_spec hF t (limbCount w)
  rw [hF.limbs] at hu hle
  have hp := F.p.isLt
  have hred : montReduce F t = BitVec.ofNat w (if F.p.toNat ≤ u then u - F.p.toNat else u) := by
    simp only [montReduce]
    rw [hF.limbs, hu, Nat.shiftRight_eq_div_pow, Nat.mul_div_cancel_left _ (Nat.two_pow_pos _)]
  have hu2 : u < 2 * F.p.toNat := by
    refine Nat.lt_of_mul_lt_mul_left (a := 2 ^ w) ?_
    rw [hu] at hle
    calc 2 ^ w * u < t + 2 ^ w * F.p.toNat := by have := hF.three_le; omega
      _ < F.p.toNat * 2 ^ w + 2 ^ w * F.p.toNat := by omega
      _ = 2 ^ w * (2 * F.p.toNat) := by ring
  have hval : u * 2 ^ w ≡ t [MOD F.p.toNat] := by rw [Nat.mul_comm, ← hu]; exact hmod
  rw [hred, BitVec.toNat_ofNat]
  split
  next h =>
    rw [Nat.mod_eq_of_lt (by omega)]
    refine ⟨by omega, Nat.ModEq.trans ?_ hval⟩
    have hsub : u * 2 ^ w = (u - F.p.toNat) * 2 ^ w + F.p.toNat * 2 ^ w := by
      rw [← Nat.add_mul, Nat.sub_add_cancel h]
    rw [hsub]
    exact (Nat.add_modulus_mul_modEq_iff.2 rfl).symm
  next h =>
    rw [Nat.mod_eq_of_lt (by omega)]
    exact ⟨by omega, hval⟩

/-! ### The residue of a raw integer -/

/-- The residue modulo P_F a raw integer stands for: m·R_F⁻¹ (41_field_kernel.md R201). -/
def residue {w : Nat} (F : BaseField w) (m : BitVec w) : ZMod F.p.toNat :=
  (m.toNat : ZMod F.p.toNat) * ((2 : ZMod F.p.toNat) ^ w)⁻¹

/-- R_F is a unit modulo P_F: the modulus is odd. -/
theorem two_pow_mul_inv (hF : BaseFieldLaws F) :
    (2 : ZMod F.p.toNat) ^ w * ((2 : ZMod F.p.toNat) ^ w)⁻¹ = 1 := by
  have hodd : Odd F.p.toNat := Nat.odd_iff.2 hF.odd
  have h := ZMod.coe_mul_inv_eq_one (n := F.p.toNat) (2 ^ w) (hodd.coprime_two_left.pow_left w)
  simpa using h

theorem residue_mul_two_pow (hF : BaseFieldLaws F) (m : BitVec w) :
    residue F m * 2 ^ w = m.toNat := by
  rw [residue, mul_assoc, mul_comm (_⁻¹), two_pow_mul_inv hF, mul_one]

/-- A residue is known by its multiple of R_F. -/
theorem eq_residue_iff (hF : BaseFieldLaws F) {z : ZMod F.p.toNat} {m : BitVec w} :
    z = residue F m ↔ z * 2 ^ w = m.toNat := by
  constructor
  · rintro rfl; exact residue_mul_two_pow hF m
  · intro h
    rw [residue, ← h, mul_assoc, two_pow_mul_inv hF, mul_one]

theorem residue_inj (hF : BaseFieldLaws F) {a b : BitVec w} (ha : canonical F a = true)
    (hb : canonical F b = true) (h : residue F a = residue F b) : a = b := by
  rw [canonical_iff] at ha hb
  have hnat : (a.toNat : ZMod F.p.toNat) = b.toNat := by
    rw [← residue_mul_two_pow hF a, h, residue_mul_two_pow hF]
  rw [ZMod.natCast_eq_natCast_iff', Nat.mod_eq_of_lt ha, Nat.mod_eq_of_lt hb] at hnat
  exact BitVec.eq_of_toNat_eq hnat

theorem residue_surj (hF : BaseFieldLaws F) (z : ZMod F.p.toNat) :
    ∃ a, canonical F a = true ∧ residue F a = z := by
  have hne : NeZero F.p.toNat := ⟨by have := hF.three_le; omega⟩
  have hlt := ZMod.val_lt (z * 2 ^ w)
  have hnat : (BitVec.ofNat w (z * 2 ^ w).val).toNat = (z * 2 ^ w).val := by
    rw [BitVec.toNat_ofNat, Nat.mod_eq_of_lt (hlt.trans F.p.isLt)]
  refine ⟨BitVec.ofNat w (z * 2 ^ w).val, by rw [canonical_iff, hnat]; exact hlt, ?_⟩
  rw [eq_comm, eq_residue_iff hF, hnat, ZMod.natCast_zmod_val]

/-! ### The functions of a base field -/

theorem montReduce_canonical (hF : BaseFieldLaws F) {t : Nat} (ht : t < F.p.toNat * 2 ^ w) :
    canonical F (montReduce F t) = true := canonical_iff.2 (montReduce_spec hF ht).1

theorem product_lt {a b : BitVec w} (ha : canonical F a = true) :
    a.toNat * b.toNat < F.p.toNat * 2 ^ w :=
  Nat.mul_lt_mul_of_lt_of_le (canonical_iff.1 ha) b.isLt.le (Nat.two_pow_pos w)

theorem montMul_canonical (hF : BaseFieldLaws F) {a : BitVec w} (b : BitVec w)
    (ha : canonical F a = true) : canonical F (montMul F a b) = true :=
  montReduce_canonical hF (product_lt ha)

theorem residue_montMul (hF : BaseFieldLaws F) {a : BitVec w} (b : BitVec w)
    (ha : canonical F a = true) : residue F (montMul F a b) = residue F a * residue F b := by
  have h := (montReduce_spec hF (product_lt (b := b) ha)).2
  have hcast := (ZMod.natCast_eq_natCast_iff _ _ _).2 h
  push_cast at hcast
  rw [eq_comm, eq_residue_iff hF, montMul]
  calc residue F a * residue F b * 2 ^ w
      = (residue F a * 2 ^ w) * (residue F b * 2 ^ w) * ((2 : ZMod F.p.toNat) ^ w)⁻¹ := by
        linear_combination (-(residue F a * residue F b * 2 ^ w)) * two_pow_mul_inv hF
    _ = (montReduce F (a.toNat * b.toNat)).toNat := by
        rw [residue_mul_two_pow hF, residue_mul_two_pow hF, ← hcast, mul_assoc, two_pow_mul_inv hF, mul_one]

theorem toNat_fadd (hF : BaseFieldLaws F) (a b : BitVec w) :
    (fadd F a b).toNat = (a.toNat + b.toNat) % F.p.toNat := by
  have hlt : (a.toNat + b.toNat) % F.p.toNat < 2 ^ w :=
    (Nat.mod_lt _ (by have := hF.three_le; omega)).trans F.p.isLt
  rw [fadd, BitVec.toNat_ofNat, Nat.mod_eq_of_lt hlt]

theorem toNat_fsub (hF : BaseFieldLaws F) (a b : BitVec w) :
    ((fsub F a b).toNat : Int) = ((a.toNat : Int) - b.toNat) % F.p.toNat := by
  have h3 := hF.three_le
  have h0 := Int.emod_nonneg ((a.toNat : Int) - b.toNat) (b := F.p.toNat) (by omega)
  have hlt := Int.emod_lt_of_pos ((a.toNat : Int) - b.toNat) (b := F.p.toNat) (by omega)
  have hp : (F.p.toNat : Int) < 2 ^ w := by exact_mod_cast F.p.isLt
  rw [fsub, BitVec.toNat_ofInt, Int.toNat_of_nonneg (Int.emod_nonneg _ (by positivity))]
  exact Int.emod_eq_of_lt h0 (by push_cast; omega)

theorem toNat_fneg {a : BitVec w} (ha : canonical F a = true) :
    (fneg F a).toNat = if a = 0 then 0 else F.p.toNat - a.toNat := by
  rw [canonical_iff] at ha
  have hp := F.p.isLt
  unfold fneg
  split
  · simp
  · rw [BitVec.toNat_sub_of_le (by rw [BitVec.le_def]; omega)]

theorem fadd_canonical (hF : BaseFieldLaws F) (a b : BitVec w) : canonical F (fadd F a b) = true := by
  rw [canonical_iff, toNat_fadd hF]
  exact Nat.mod_lt _ (by have := hF.three_le; omega)

theorem fsub_canonical (hF : BaseFieldLaws F) (a b : BitVec w) : canonical F (fsub F a b) = true := by
  rw [canonical_iff]
  have h3 := hF.three_le
  have h := toNat_fsub hF a b
  have hlt := Int.emod_lt_of_pos ((a.toNat : Int) - b.toNat) (b := F.p.toNat) (by omega)
  omega

theorem fneg_canonical (hF : BaseFieldLaws F) {a : BitVec w} (ha : canonical F a = true) :
    canonical F (fneg F a) = true := by
  rw [canonical_iff, toNat_fneg ha]
  have h3 := hF.three_le
  split
  · omega
  next hne =>
    have : a.toNat ≠ 0 := fun h => hne (BitVec.eq_of_toNat_eq h)
    omega

theorem one_canonical (hF : BaseFieldLaws F) : canonical F F.one = true := by
  rw [canonical_iff, hF.one]
  exact Nat.mod_lt _ (by have := hF.three_le; omega)

theorem zero_canonical (hF : BaseFieldLaws F) : canonical F 0 = true := by
  rw [canonical_iff]
  have := hF.three_le
  simp; omega

theorem residue_zero : residue F 0 = 0 := by simp [residue]

theorem residue_one (hF : BaseFieldLaws F) : residue F F.one = 1 := by
  rw [eq_comm, eq_residue_iff hF, hF.one]
  simp

theorem residue_fadd (hF : BaseFieldLaws F) (a b : BitVec w) :
    residue F (fadd F a b) = residue F a + residue F b := by
  rw [eq_comm, eq_residue_iff hF, toNat_fadd hF, add_mul, residue_mul_two_pow hF, residue_mul_two_pow hF]
  simp

theorem residue_fsub (hF : BaseFieldLaws F) (a b : BitVec w) :
    residue F (fsub F a b) = residue F a - residue F b := by
  have h : (((fsub F a b).toNat : Int) : ZMod F.p.toNat) = ((a.toNat : Int) - b.toNat : Int) := by
    rw [toNat_fsub hF, ZMod.intCast_mod]
  rw [eq_comm, eq_residue_iff hF, sub_mul, residue_mul_two_pow hF, residue_mul_two_pow hF]
  simpa using h.symm

theorem residue_fneg (hF : BaseFieldLaws F) {a : BitVec w} (ha : canonical F a = true) :
    residue F (fneg F a) = -residue F a := by
  rw [eq_comm, eq_residue_iff hF, neg_mul, residue_mul_two_pow hF, toNat_fneg ha]
  rw [canonical_iff] at ha
  split
  next h => simp [h]
  next => rw [Nat.cast_sub ha.le]; simp

/-- The power by squaring is the power (41_field_kernel.md R212). -/
theorem fpow_spec (hF : BaseFieldLaws F) (a : BitVec w) (fuel e : Nat) :
    canonical F (fpow F a fuel e) = true ∧
      (e < 2 ^ fuel → residue F (fpow F a fuel e) = residue F a ^ e) := by
  induction fuel generalizing e with
  | zero =>
    refine ⟨one_canonical hF, fun he => ?_⟩
    obtain rfl : e = 0 := by omega
    simpa [fpow] using residue_one hF
  | succ fuel ih =>
    obtain ⟨hok, hpow⟩ := ih (e / 2)
    have hsqr : canonical F (fsqr F (fpow F a fuel (e / 2))) = true := montMul_canonical hF _ hok
    have hval : e < 2 ^ (fuel + 1) → residue F (fsqr F (fpow F a fuel (e / 2))) =
        residue F a ^ (2 * (e / 2)) := by
      intro he
      rw [fsqr, residue_montMul hF _ hok, hpow (by omega), ← pow_add, two_mul]
    simp only [fpow]
    split
    next hodd =>
      refine ⟨montMul_canonical hF _ hsqr, fun he => ?_⟩
      rw [residue_montMul hF _ hsqr, hval he, ← pow_succ]
      congr 1; omega
    next heven =>
      refine ⟨hsqr, fun he => ?_⟩
      rw [hval he]
      congr 1; omega

/-- The canonical raw integers are closed under the functions of a base field (10_state.md R35). -/
theorem baseOps_keeps (hF : BaseFieldLaws F) : (baseOps F).Keeps fun a => canonical F a = true where
  zero := zero_canonical hF
  one := one_canonical hF
  add a b _ _ := fadd_canonical hF a b
  sub a b _ _ := fsub_canonical hF a b
  dbl a _ := fadd_canonical hF a a
  neg _ ha := fneg_canonical hF ha
  mul _ b ha _ := montMul_canonical hF b ha
  sqr a ha := montMul_canonical hF a ha
  inv a b _ hb := by
    simp only [baseOps, finv] at hb
    split at hb
    · cases hb
    · cases hb; exact (fpow_spec hF a _ _).1

/-- The canonical raw integers of a base field are the integers modulo P_F. -/
theorem baseOps_reads (hF : BaseFieldLaws F) :
    (baseOps F).Reads (fun a => canonical F a = true) (residue F) where
  keeps := baseOps_keeps hF
  inj _ _ := residue_inj hF
  surj := residue_surj hF
  zero := residue_zero
  one := residue_one hF
  add a b _ _ := residue_fadd hF a b
  sub a b _ _ := residue_fsub hF a b
  dbl a _ := residue_fadd hF a a
  neg _ := residue_fneg hF
  mul _ b ha _ := residue_montMul hF b ha
  sqr a ha := residue_montMul hF a ha
  eq_iff a b := by simp [baseOps]
  isZero_iff a := by simp [baseOps]
  isOne_iff a := by simp [baseOps]

/-- In a field of prime modulus every element but 0 has its inverse (41_field_kernel.md R211). -/
theorem finv_spec (hF : BaseFieldLaws F) (hp : F.p.toNat.Prime) {a : BitVec w} (ha : canonical F a = true)
    (h0 : a ≠ 0) : ∃ z, finv F a = some z ∧ canonical F z = true ∧ residue F a * residue F z = 1 := by
  have hfact : Fact F.p.toNat.Prime := ⟨hp⟩
  have h3 := hF.three_le
  have hlt : F.p.toNat - 2 < 2 ^ w := by have := F.p.isLt; omega
  obtain ⟨hok, hpow⟩ := fpow_spec hF a w (F.p.toNat - 2)
  have hne : residue F a ≠ 0 := fun h =>
    h0 (residue_inj hF ha (zero_canonical hF) (h.trans residue_zero.symm))
  refine ⟨_, if_neg h0, hok, ?_⟩
  rw [hpow hlt, ← pow_succ', show F.p.toNat - 2 + 1 = F.p.toNat - 1 by omega]
  exact ZMod.pow_card_sub_one_eq_one hne

end

end Sys2Proof.Machine
end

section
/-!
Canonical registers stay canonical: every function of the five fields and three groups, and every load,
gives coefficients below their modulus (10_state.md R35). With it every step keeps the good states.
-/

namespace Sys2Proof.Machine

open Config

/-! ### The parameter storage -/

/-- What `paramsOk` says of the parameter storage (00_scope.md R6, R8). -/
structure ParamLaws (P : ParamStore) : Prop where
  fr : BaseFieldLaws P.fr
  fq : BaseFieldLaws P.fq
  mod_six : P.fq.p.toNat % 6 = 1
  beta : canonical P.fq P.beta = true
  xi : canonical2 P P.xi = true
  bG1 : canonical P.fq P.bG1 = true
  bG2 : canonical2 P P.bG2 = true
  b3G1 : P.b3G1 = fadd P.fq (fadd P.fq P.bG1 P.bG1) P.bG1
  b3G2 : P.b3G2 = add2 P (add2 P P.bG2 P.bG2) P.bG2
  bG1_ne : P.bG1 ≠ 0
  bG2_ne : P.bG2 ≠ ⟨0, 0⟩
  edA : canonical P.fr P.edA = true
  edD : canonical P.fr P.edD = true
  edA_ne : P.edA ≠ 0
  edD_ne : P.edD ≠ 0
  edA_ne_edD : P.edA ≠ P.edD
  frob6C1 : ∀ x ∈ P.frob6C1.toList, canonical2 P x = true
  frob6C2 : ∀ x ∈ P.frob6C2.toList, canonical2 P x = true
  frob12C1 : ∀ x ∈ P.frob12C1.toList, canonical2 P x = true

theorem fq2_ext {a b : Fq2} (h0 : a.c0 = b.c0) (h1 : a.c1 = b.c1) : a = b := by
  cases a; cases b; simp_all

theorem paramLaws_of_ok {P : ParamStore} (h : paramsOk P = true) : ParamLaws P := by
  simp only [paramsOk, Bool.and_eq_true, decide_eq_true_eq, beq_iff_eq, bne_iff_ne, List.all_eq_true,
    and_assoc] at h
  obtain ⟨hfr, hfq, hsix, hbeta, hxi, hb1, hb2, hb31, hb32, hb33, hb1n, hb2n, ha, hd, han, hdn, had, h61,
    h62, h121⟩ := h
  exact ⟨baseFieldLaws_of_ok (.inl rfl) hfr, baseFieldLaws_of_ok (.inr rfl) hfq, hsix, hbeta, hxi, hb1, hb2,
    hb31, fq2_ext hb32 hb33, hb1n, hb2n, ha, hd, han, hdn, had, h61, h62, h121⟩

theorem canonical2_iff {P : ParamStore} {a : Fq2} :
    canonical2 P a = true ↔ canonical P.fq a.c0 = true ∧ canonical P.fq a.c1 = true := by
  simp [canonical2]

theorem canonical6_iff {P : ParamStore} {a : Fq6} : canonical6 P a = true ↔
    canonical2 P a.c0 = true ∧ canonical2 P a.c1 = true ∧ canonical2 P a.c2 = true := by
  simp [canonical6, and_assoc]

theorem canonical12_iff {P : ParamStore} {a : Fq12} :
    canonical12 P a = true ↔ canonical6 P a.c0 = true ∧ canonical6 P a.c1 = true := by
  simp [canonical12]

/-! ### The tower -/

section

variable {P : ParamStore} (hP : ParamLaws P)

include hP

theorem add2_canonical (a b : Fq2) : canonical2 P (add2 P a b) = true :=
  canonical2_iff.2 ⟨fadd_canonical hP.fq _ _, fadd_canonical hP.fq _ _⟩

theorem sub2_canonical (a b : Fq2) : canonical2 P (sub2 P a b) = true :=
  canonical2_iff.2 ⟨fsub_canonical hP.fq _ _, fsub_canonical hP.fq _ _⟩

theorem mul2_canonical (a b : Fq2) : canonical2 P (mul2 P a b) = true :=
  canonical2_iff.2 ⟨fadd_canonical hP.fq _ _, fsub_canonical hP.fq _ _⟩

theorem neg2_canonical {a : Fq2} (ha : canonical2 P a = true) : canonical2 P (neg2 P a) = true := by
  rw [canonical2_iff] at ha
  exact canonical2_iff.2 ⟨fneg_canonical hP.fq ha.1, fneg_canonical hP.fq ha.2⟩

theorem conj2_canonical {a : Fq2} (ha : canonical2 P a = true) : canonical2 P (conj2 P a) = true := by
  rw [canonical2_iff] at ha
  exact canonical2_iff.2 ⟨ha.1, fneg_canonical hP.fq ha.2⟩

theorem zero2_canonical : canonical2 P zero2 = true :=
  canonical2_iff.2 ⟨zero_canonical hP.fq, zero_canonical hP.fq⟩

theorem one2_canonical : canonical2 P (one2 P) = true :=
  canonical2_iff.2 ⟨one_canonical hP.fq, zero_canonical hP.fq⟩

theorem inv2_canonical {a b : Fq2} (ha : canonical2 P a = true) (hb : inv2 P a = some b) :
    canonical2 P b = true := by
  rw [canonical2_iff] at ha
  unfold inv2 at hb
  split at hb
  · cases hb
  · cases hb
    exact canonical2_iff.2 ⟨montMul_canonical hP.fq _ ha.1,
      fneg_canonical hP.fq (montMul_canonical hP.fq _ ha.2)⟩

theorem fq2Ops_keeps : (fq2Ops P).Keeps fun a => canonical2 P a = true where
  zero := zero2_canonical hP
  one := one2_canonical hP
  add a b _ _ := add2_canonical hP a b
  sub a b _ _ := sub2_canonical hP a b
  dbl a _ := add2_canonical hP a a
  neg _ ha := neg2_canonical hP ha
  mul a b _ _ := mul2_canonical hP a b
  sqr a _ := mul2_canonical hP a a
  inv _ _ ha hb := inv2_canonical hP ha hb

theorem add6_canonical (a b : Fq6) : canonical6 P (add6 P a b) = true :=
  canonical6_iff.2 ⟨add2_canonical hP _ _, add2_canonical hP _ _, add2_canonical hP _ _⟩

theorem sub6_canonical (a b : Fq6) : canonical6 P (sub6 P a b) = true :=
  canonical6_iff.2 ⟨sub2_canonical hP _ _, sub2_canonical hP _ _, sub2_canonical hP _ _⟩

theorem mul6_canonical (a b : Fq6) : canonical6 P (mul6 P a b) = true :=
  canonical6_iff.2 ⟨add2_canonical hP _ _, add2_canonical hP _ _, add2_canonical hP _ _⟩

theorem neg6_canonical {a : Fq6} (ha : canonical6 P a = true) : canonical6 P (neg6 P a) = true := by
  obtain ⟨h0, h1, h2⟩ := canonical6_iff.1 ha
  exact canonical6_iff.2 ⟨neg2_canonical hP h0, neg2_canonical hP h1, neg2_canonical hP h2⟩

theorem mulnr6_canonical {a : Fq6} (ha : canonical6 P a = true) : canonical6 P (mulnr6 P a) = true := by
  obtain ⟨h0, h1, -⟩ := canonical6_iff.1 ha
  exact canonical6_iff.2 ⟨mul2_canonical hP _ _, h0, h1⟩

theorem zero6_canonical : canonical6 P zero6 = true :=
  canonical6_iff.2 ⟨zero2_canonical hP, zero2_canonical hP, zero2_canonical hP⟩

theorem one6_canonical : canonical6 P (one6 P) = true :=
  canonical6_iff.2 ⟨one2_canonical hP, zero2_canonical hP, zero2_canonical hP⟩

theorem inv6_canonical {a b : Fq6} (hb : inv6 P a = some b) : canonical6 P b = true := by
  unfold inv6 at hb
  dsimp only at hb
  split at hb
  · cases hb
  · cases hb
    exact canonical6_iff.2 ⟨mul2_canonical hP _ _, mul2_canonical hP _ _, mul2_canonical hP _ _⟩

theorem fq6Ops_keeps : (fq6Ops P).Keeps fun a => canonical6 P a = true where
  zero := zero6_canonical hP
  one := one6_canonical hP
  add a b _ _ := add6_canonical hP a b
  sub a b _ _ := sub6_canonical hP a b
  dbl a _ := add6_canonical hP a a
  neg _ ha := neg6_canonical hP ha
  mul a b _ _ := mul6_canonical hP a b
  sqr a _ := mul6_canonical hP a a
  inv _ _ _ hb := inv6_canonical hP hb

theorem conj12_canonical {a : Fq12} (ha : canonical12 P a = true) : canonical12 P (conj12 P a) = true := by
  obtain ⟨h0, h1⟩ := canonical12_iff.1 ha
  exact canonical12_iff.2 ⟨h0, neg6_canonical hP h1⟩

theorem inv12_canonical {a b : Fq12} (hb : inv12 P a = some b) : canonical12 P b = true := by
  unfold inv12 at hb
  split at hb
  · cases hb
  · cases hb
    exact canonical12_iff.2 ⟨mul6_canonical hP _ _, neg6_canonical hP (mul6_canonical hP _ _)⟩

theorem fq12Ops_keeps : (fq12Ops P).Keeps fun a => canonical12 P a = true where
  zero := canonical12_iff.2 ⟨zero6_canonical hP, zero6_canonical hP⟩
  one := canonical12_iff.2 ⟨one6_canonical hP, zero6_canonical hP⟩
  add _ _ _ _ := canonical12_iff.2 ⟨add6_canonical hP _ _, add6_canonical hP _ _⟩
  sub _ _ _ _ := canonical12_iff.2 ⟨sub6_canonical hP _ _, sub6_canonical hP _ _⟩
  dbl _ _ := canonical12_iff.2 ⟨add6_canonical hP _ _, add6_canonical hP _ _⟩
  neg a ha := by
    obtain ⟨h0, h1⟩ := canonical12_iff.1 ha
    exact canonical12_iff.2 ⟨neg6_canonical hP h0, neg6_canonical hP h1⟩
  mul _ _ _ _ := canonical12_iff.2 ⟨add6_canonical hP _ _, sub6_canonical hP _ _⟩
  sqr _ _ := canonical12_iff.2 ⟨add6_canonical hP _ _, sub6_canonical hP _ _⟩
  inv _ _ _ hb := inv12_canonical hP hb

theorem frob2_canonical {a : Fq2} (ha : canonical2 P a = true) (i : Nat) :
    canonical2 P (frob2 P a i) = true := by
  unfold frob2
  split
  · exact ha
  · exact conj2_canonical hP ha

theorem frob6_canonical {a : Fq6} (ha : canonical6 P a = true) (i : Nat) :
    canonical6 P (frob6 P a i) = true :=
  canonical6_iff.2 ⟨frob2_canonical hP (canonical6_iff.1 ha).1 _, mul2_canonical hP _ _,
    mul2_canonical hP _ _⟩

theorem frob12_canonical {a : Fq12} (ha : canonical12 P a = true) (i : Nat) :
    canonical12 P (frob12 P a i) = true :=
  canonical12_iff.2 ⟨frob6_canonical hP (canonical12_iff.1 ha).1 _, canonical6_iff.2
    ⟨mul2_canonical hP _ _, mul2_canonical hP _ _, mul2_canonical hP _ _⟩⟩

end

/-! ### The groups -/

/-- The point functions of a Weierstrass group keep canonical coordinates and the normal form of the
affine identity (10_state.md R35). -/
theorem weierstrassOps_keeps_canonical {K : Type} [DecidableEq K] {F : FieldOps K} {ok : K → Bool}
    {b b3 : K} (hF : F.Keeps fun a => ok a = true) (hb3 : ok b3 = true) :
    (weierstrassOps F b b3).Keeps (fun a => affineOk F ok a = true) fun p => projOk ok p = true := by
  -- The coordinates of a sum and of a double are sums, differences and products of kept elements.
  have hadd := hF.add
  have hsub := hF.sub
  have hmul := hF.mul
  have hone := hF.one
  have hzero := hF.zero
  simp only [affineOk, projOk, Bool.and_eq_true, Bool.or_eq_true, decide_eq_true_eq, Bool.not_eq_true']
  constructor
  case identityA => simp [weierstrassOps, hone, hzero]
  case identityE => simp [weierstrassOps, hone, hzero]
  case toProj =>
    rintro a ⟨⟨hx, hy⟩, -⟩
    simp only [weierstrassOps, toprojW]
    split
    · simp [hone, hzero]
    · simp [hx, hy, hone]
  case toAff =>
    rintro p a ⟨⟨hx, hy⟩, hz⟩ ha
    obtain rfl : toaffW F p = a := by simpa [weierstrassOps] using ha
    unfold toaffW
    split
    next z _ hz' => simp [hmul _ _ hx (hF.inv _ z hz hz'), hmul _ _ hy (hF.inv _ z hz hz')]
    next => simp [hone, hzero]
  case add =>
    rintro p q ⟨⟨hpx, hpy⟩, hpz⟩ ⟨⟨hqx, hqy⟩, hqz⟩
    simp only [weierstrassOps, addW]
    refine ⟨⟨?_, ?_⟩, ?_⟩
    all_goals repeat' first | assumption | apply hadd | apply hsub | apply hmul
  case dbl =>
    rintro p ⟨⟨hpx, hpy⟩, hpz⟩
    simp only [weierstrassOps, dblW]
    refine ⟨⟨?_, ?_⟩, ?_⟩
    all_goals repeat' first | assumption | apply hadd | apply hsub | apply hmul
  case negE =>
    rintro p ⟨⟨hpx, hpy⟩, hpz⟩
    exact ⟨⟨hpx, hF.neg _ hpy⟩, hpz⟩
  case negA =>
    rintro a a' ⟨⟨hx, hy⟩, -⟩ ha
    simp only [weierstrassOps, negWA] at ha
    split at ha
    · cases ha
    · cases ha; simp [hx, hF.neg _ hy]

/-- The point functions of ED keep canonical coordinates (10_state.md R35). -/
theorem edOps_keeps_canonical {P : ParamStore} (hP : ParamLaws P) :
    (edOps P).Keeps (fun a => edAffineOk P a = true) fun p => edExtendedOk P p = true := by
  have hF := baseOps_keeps hP.fr
  simp only [edAffineOk, edExtendedOk, Bool.and_eq_true]
  constructor
  case identityA => exact ⟨hF.zero, hF.one⟩
  case identityE => exact ⟨⟨⟨hF.zero, hF.one⟩, hF.zero⟩, hF.one⟩
  case toProj =>
    rintro a ⟨hx, hy⟩
    exact ⟨⟨⟨hx, hy⟩, hF.mul _ _ hx hy⟩, hF.one⟩
  case toAff =>
    rintro p a ⟨⟨⟨hx, hy⟩, -⟩, hz⟩ ha
    simp only [edOps, toaffE] at ha
    split at ha
    · cases ha
    · cases ha; exact ⟨montMul_canonical hP.fr _ hx, montMul_canonical hP.fr _ hy⟩
  case add =>
    rintro p q - -
    have hsub : ∀ a b, canonical P.fr ((frOps P).sub a b) = true := fsub_canonical hP.fr
    have hadd : ∀ a b, canonical P.fr ((frOps P).add a b) = true := fadd_canonical hP.fr
    have hmul : ∀ a b, canonical P.fr a = true → canonical P.fr ((frOps P).mul a b) = true :=
      fun _ b ha => montMul_canonical hP.fr b ha
    simp [edOps, addE, hsub, hadd, hmul]
  case dbl =>
    rintro p -
    have hsub : ∀ a b, canonical P.fr ((frOps P).sub a b) = true := fsub_canonical hP.fr
    have hadd : ∀ a b, canonical P.fr ((frOps P).add a b) = true := fadd_canonical hP.fr
    have hmul : ∀ a b, canonical P.fr a = true → canonical P.fr ((frOps P).mul a b) = true :=
      fun _ b ha => montMul_canonical hP.fr b ha
    simp [edOps, dblE, hsub, hadd, hmul]
  case negE =>
    rintro p ⟨⟨⟨hx, hy⟩, ht⟩, hz⟩
    exact ⟨⟨⟨hF.neg _ hx, hy⟩, hF.neg _ ht⟩, hz⟩
  case negA =>
    rintro a a' ⟨hx, hy⟩ ha
    simp only [edOps, negEA] at ha
    split at ha
    · cases ha
    · cases ha; exact ⟨hF.neg _ hx, hy⟩

/-! ### Loads -/

theorem decCanonical_canonical {s : State} {w : Nat} {F : BaseField w} (hF : BaseFieldLaws F) {off : Nat}
    {x : BitVec w} (h : decCanonical s F off = some x) : canonical F x = true := by
  simp only [decCanonical] at h
  split at h
  · cases h
    have hlt : readLimbs s F off % F.p.toNat < F.p.toNat :=
      Nat.mod_lt _ (by have := hF.three_le; omega)
    refine montMul_canonical hF _ (canonical_iff.2 ?_)
    rwa [BitVec.toNat_ofNat, Nat.mod_eq_of_lt (hlt.trans F.p.isLt)]
  · cases h

theorem decRaw_canonical {s : State} {w : Nat} {F : BaseField w} {off : Nat} {x : BitVec w}
    (h : decRaw s F off = some x) : canonical F x = true := by
  simp only [decRaw, inRange, decide_eq_true_eq] at h
  split at h
  next hlt => cases h; rwa [canonical_iff, BitVec.toNat_ofNat, Nat.mod_eq_of_lt (hlt.trans F.p.isLt)]
  next => cases h

/-- A reader of coefficients gives canonical ones. -/
structure CoeffReader.Canonical (R : CoeffReader) (P : ParamStore) : Prop where
  fr : ∀ off x, R.fr off = some x → canonical P.fr x = true
  fq : ∀ off x, R.fq off = some x → canonical P.fq x = true

theorem canonicalReader_canonical {s : State} (hP : ParamLaws s.params) :
    (canonicalReader s).Canonical s.params :=
  ⟨fun _ _ => decCanonical_canonical hP.fr, fun _ _ => decCanonical_canonical hP.fq⟩

theorem rawReader_canonical (s : State) : (rawReader s).Canonical s.params :=
  ⟨fun _ _ => decRaw_canonical, fun _ _ => decRaw_canonical⟩

section

variable {P : ParamStore} {R : CoeffReader} (hR : R.Canonical P)

include hR

theorem readFq2_canonical {off : Nat} {x : Fq2} (h : readFq2 R off = some x) :
    canonical2 P x = true := by
  unfold readFq2 at h
  split at h
  next h0 h1 => cases h; exact canonical2_iff.2 ⟨hR.fq _ _ h0, hR.fq _ _ h1⟩
  next => cases h

theorem readFq6_canonical {off : Nat} {x : Fq6} (h : readFq6 R off = some x) :
    canonical6 P x = true := by
  unfold readFq6 at h
  split at h
  next h0 h1 h2 =>
    cases h
    exact canonical6_iff.2 ⟨readFq2_canonical hR h0, readFq2_canonical hR h1, readFq2_canonical hR h2⟩
  next => cases h

theorem readFq12_canonical {off : Nat} {x : Fq12} (h : readFq12 R off = some x) :
    canonical12 P x = true := by
  unfold readFq12 at h
  split at h
  next h0 h1 => cases h; exact canonical12_iff.2 ⟨readFq6_canonical hR h0, readFq6_canonical hR h1⟩
  next => cases h

theorem readField_valueOk {t : TCode} {off : Nat} {x : Value} (h : readField R t off = some x) :
    valueOk P x = true := by
  unfold readField at h
  split at h
  next => obtain ⟨a, ha, rfl⟩ := Option.map_eq_some_iff.1 h; exact hR.fr _ _ ha
  next => obtain ⟨a, ha, rfl⟩ := Option.map_eq_some_iff.1 h; exact hR.fq _ _ ha
  next => obtain ⟨a, ha, rfl⟩ := Option.map_eq_some_iff.1 h; exact readFq2_canonical hR ha
  next => obtain ⟨a, ha, rfl⟩ := Option.map_eq_some_iff.1 h; exact readFq6_canonical hR ha
  next => obtain ⟨a, ha, rfl⟩ := Option.map_eq_some_iff.1 h; exact readFq12_canonical hR ha
  next => cases h

end

/-- An affine point that loads is the flagged identity or has loaded coordinates on the curve
(40_data_movement.md R162). -/
theorem readAffine_cases {K : Type} {s : State} {G : GroupOps (AffinePoint K) (ProjPoint K)}
    {coord : Nat → Option K} {n off : Nat} {a : AffinePoint K} (h : readAffine s G coord n off = some a) :
    a = G.identityA ∨
      coord off = some a.x ∧ coord (off + n) = some a.y ∧ a.inf = false ∧ G.onCurveA a = true := by
  unfold readAffine at h
  split at h
  next => cases h; exact .inl rfl
  next =>
    split at h
    next =>
      split at h
      next x y hx hy =>
        split at h
        next hc => cases h; exact .inr ⟨hx, hy, rfl, hc⟩
        next => cases h
      next => cases h
    next => cases h

/-- A projective point that loads has loaded coordinates on the curve (40_data_movement.md R162). -/
theorem readProj_spec {K : Type} {G : GroupOps (AffinePoint K) (ProjPoint K)}
    {coord : Nat → Option K} {n off : Nat} {p : ProjPoint K} (h : readProj G coord n off = some p) :
    coord off = some p.x ∧ coord (off + n) = some p.y ∧ coord (off + 2 * n) = some p.z ∧
      G.onCurveE p = true := by
  unfold readProj at h
  split at h
  next x y z hx hy hz =>
    split at h
    next hc => cases h; exact ⟨hx, hy, hz, hc⟩
    next => cases h
  next => cases h

theorem readEdAffine_spec {P : ParamStore} {R : CoeffReader} {off : Nat} {a : EdAffine}
    (h : readEdAffine P R off = some a) :
    R.fr off = some a.x ∧ R.fr (off + 4) = some a.y ∧ onCurveEA P a = true := by
  unfold readEdAffine at h
  split at h
  next x y hx hy =>
    split at h
    next hc => cases h; exact ⟨hx, hy, hc⟩
    next => cases h
  next => cases h

theorem readEdExtended_spec {P : ParamStore} {R : CoeffReader} {off : Nat} {p : EdExtended}
    (h : readEdExtended P R off = some p) :
    R.fr off = some p.x ∧ R.fr (off + 4) = some p.y ∧ R.fr (off + 8) = some p.t ∧
      R.fr (off + 12) = some p.z ∧ onCurveEE P p = true := by
  unfold readEdExtended at h
  split at h
  next x y t z hx hy ht hz =>
    split at h
    next hc => cases h; exact ⟨hx, hy, ht, hz, hc⟩
    next => cases h
  next => cases h

theorem affineOk_of_read {K : Type} [DecidableEq K] {s : State} {F : FieldOps K} {ok : K → Bool} {b b3 : K}
    {coord : Nat → Option K} {n off : Nat} {a : AffinePoint K} (hF : F.Keeps fun x => ok x = true)
    (hcoord : ∀ off x, coord off = some x → ok x = true)
    (h : readAffine s (weierstrassOps F b b3) coord n off = some a) : affineOk F ok a = true := by
  obtain rfl | ⟨hx, hy, hinf, -⟩ := readAffine_cases h
  · simp [affineOk, weierstrassOps, hF.zero, hF.one]
  · simp [affineOk, hcoord _ _ hx, hcoord _ _ hy, hinf]

theorem projOk_of_read {K : Type} {G : GroupOps (AffinePoint K) (ProjPoint K)} {ok : K → Bool}
    {coord : Nat → Option K} {n off : Nat} {p : ProjPoint K}
    (hcoord : ∀ off x, coord off = some x → ok x = true)
    (h : readProj G coord n off = some p) : projOk ok p = true := by
  obtain ⟨hx, hy, hz, -⟩ := readProj_spec h
  simp [projOk, hcoord _ _ hx, hcoord _ _ hy, hcoord _ _ hz]

/-- Every value LD loads satisfies the register invariants (40_data_movement.md R162, 10_state.md R35). -/
theorem decodeCanonical_valueOk {s : State} (hP : ParamLaws s.params) {t : TCode} {off : Nat} {x : Value}
    (h : decodeCanonical s t off = some x) : valueOk s.params x = true := by
  have hR := canonicalReader_canonical hP
  have hfq := baseOps_keeps hP.fq
  unfold decodeCanonical at h
  dsimp only at h
  split at h
  next => obtain ⟨b, -, rfl⟩ := Option.map_eq_some_iff.1 h; rfl
  next => obtain ⟨a, ha, rfl⟩ := Option.map_eq_some_iff.1 h; exact affineOk_of_read hfq hR.fq ha
  next => obtain ⟨p, hp, rfl⟩ := Option.map_eq_some_iff.1 h; exact projOk_of_read hR.fq hp
  next =>
    obtain ⟨a, ha, rfl⟩ := Option.map_eq_some_iff.1 h
    exact affineOk_of_read (fq2Ops_keeps hP) (fun _ _ => readFq2_canonical hR) ha
  next =>
    obtain ⟨p, hp, rfl⟩ := Option.map_eq_some_iff.1 h
    exact projOk_of_read (fun _ _ => readFq2_canonical hR) hp
  next =>
    obtain ⟨a, ha, rfl⟩ := Option.map_eq_some_iff.1 h
    obtain ⟨hx, hy, -⟩ := readEdAffine_spec ha
    simp [valueOk, edAffineOk, hR.fr _ _ hx, hR.fr _ _ hy]
  next =>
    obtain ⟨p, hp, rfl⟩ := Option.map_eq_some_iff.1 h
    obtain ⟨hx, hy, ht, hz, -⟩ := readEdExtended_spec hp
    simp [valueOk, edExtendedOk, hR.fr _ _ hx, hR.fr _ _ hy, hR.fr _ _ ht, hR.fr _ _ hz]
  next => exact readField_valueOk hR h

/-! ### Every command writes a canonical value -/

theorem reduceValue_valueOk {P : ParamStore} (hP : ParamLaws P) {x y : Value}
    (h : reduceValue P x = .ok y) : valueOk P y = true := by
  have hred : ∀ {w : Nat} {F : BaseField w}, BaseFieldLaws F → ∀ m : BitVec w,
      canonical F (montReduce F m.toNat) = true := fun {w F} hF m => by
    refine montReduce_canonical hF (m.isLt.trans_le ?_)
    exact Nat.le_mul_of_pos_left _ (by have := hF.three_le; omega)
  unfold reduceValue at h
  split at h <;> cases h
  · exact hred hP.fr _
  · exact hred hP.fq _

/-- The register invariants are kept by every function a command applies (10_state.md R35). -/
theorem valueOk_kept {s : State} (h : paramsOk s.params = true) :
    ValuesKept s fun x => valueOk s.params x = true := by
  have hP := paramLaws_of_ok h
  refine
    { bool := fun _ => rfl
      fr := baseOps_keeps hP.fr
      fq := baseOps_keeps hP.fq
      fq2 := fq2Ops_keeps hP
      fq6 := fq6Ops_keeps hP
      fq12 := fq12Ops_keeps hP
      g1 := ?_, g2 := ?_
      ed := edOps_keeps_canonical hP
      reduce := fun _ _ _ => reduceValue_valueOk hP
      mulnr := ?_, conj := ?_, frob := ?_
      load := fun _ _ _ => decodeCanonical_valueOk hP
      rawLoad := fun _ _ _ => readField_valueOk (rawReader_canonical s) }
  · refine weierstrassOps_keeps_canonical (baseOps_keeps hP.fq) ?_
    rw [hP.b3G1]
    exact fadd_canonical hP.fq _ _
  · refine weierstrassOps_keeps_canonical (fq2Ops_keeps hP) ?_
    rw [hP.b3G2]
    exact add2_canonical hP _ _
  · rintro x y hx hy
    unfold mulNonResidue at hy
    split at hy <;> cases hy
    · exact mul2_canonical hP _ _
    · exact mulnr6_canonical hP hx
  · rintro x y hx hy
    unfold conjugate at hy
    split at hy <;> cases hy
    · exact conj2_canonical hP hx
    · exact conj12_canonical hP hx
  · rintro i x y hx hy
    unfold frobenius at hy
    split at hy <;> cases hy
    · exact frob2_canonical hP hx i
    · exact frob6_canonical hP hx i
    · exact frob12_canonical hP hx i

end Sys2Proof.Machine
end

section
/-!
The whole-machine invariant: every step keeps the good states, the reset state is one, and a register
becomes EMPTY only by a reset, a None result or a failed decode (10_state.md R34, R35).
-/

namespace Sys2Proof.Machine

open Config

/-! ### The commit of an effect -/

/-- A value's layout takes `words(T)` words (40_data_movement.md R160, R161). -/
theorem chunkWords_chunksOf (g : Fr → Nat) (f : Fq → Nat) (x : Value) :
    chunkWords (chunksOf g f x) = wordsOf (tagOf x) := by
  cases x <;> rfl

/-- A store's words lie in IOBUF (60_exceptions.md R425 step 5). -/
theorem Commits.store_range {s : State} {i : Instr} {off : Nat} {chunks : List (Nat × Nat)}
    (h : Commits s i (.store off chunks)) : off + chunkWords chunks ≤ 1024 := by
  cases i with
  | st t d o =>
    obtain ⟨-, hr, hd, he⟩ := h
    cases he
    rw [encodeCanonical, chunkWords_chunksOf, hd.tag_eq]
    simpa [rangeLegal] using hr
  | stm t d o =>
    obtain ⟨-, hr, hd, he⟩ := h
    cases he
    rw [encodeRaw, chunkWords_chunksOf, hd.tag_eq]
    simpa [rangeLegal] using hr
  | _ => simp [Commits] at h

/-- What a register holds after a commit: its old value, EMPTY, or the value the command wrote. -/
theorem applyEffect_reg (e : Effect) (s : State) (r : Reg) :
    (applyEffect e s).reg r = s.reg r ∨
    ((applyEffect e s).reg r = .empty ∧ (e = .noneResult r ∨ e = .decodeFailure r)) ∨
    ∃ x, e = .put r x ∧ (applyEffect e s).reg r = x := by
  cases e with
  | nothing => exact .inl rfl
  | put d x =>
    by_cases hr : r = d
    · subst hr; exact .inr (.inr ⟨x, rfl, State.reg_setReg s r x⟩)
    · exact .inl (State.reg_setReg_of_ne s x hr)
  | noneResult d =>
    by_cases hr : r = d
    · subst hr; exact .inr (.inl ⟨State.reg_setReg s r .empty, .inl rfl⟩)
    · exact .inl (State.reg_setReg_of_ne s .empty hr)
  | decodeFailure d =>
    by_cases hr : r = d
    · subst hr; exact .inr (.inl ⟨State.reg_setReg s r .empty, .inr rfl⟩)
    · exact .inl (State.reg_setReg_of_ne s .empty hr)
  | store off chunks =>
    left
    rw [applyEffect, State.storeChunks_eq]
    rfl

/-- A kept predicate that holds of EMPTY and of every register holds of every register after a command. -/
theorem Commits.regs_kept {s : State} {i : Instr} {e : Effect} {Q : Value → Prop} (hQ : ValuesKept s Q)
    (hc : Commits s i e) (hempty : Q .empty) (hs : ∀ r, Q (s.reg r)) (r : Reg) :
    Q ((retire (applyEffect e s)).reg r) := by
  rw [retire_reg]
  obtain h | ⟨h, -⟩ | ⟨x, rfl, h⟩ := applyEffect_reg e s r
  · rw [h]; exact hs r
  · rw [h]; exact hempty
  · rw [h]; exact hc.put_kept hQ fun r _ => hs r

/-- A commit keeps the canonical form of IOBUF (20_memory.md R85). -/
theorem Commits.memory_wf {s : State} {i : Instr} {e : Effect} (hc : Commits s i e)
    (h : Memory.wf s.iobuf = true) : Memory.wf (applyEffect e s).iobuf = true := by
  cases e with
  | store off chunks => exact State.wf_storeChunks s off chunks hc.store_range h
  | nothing => exact h
  | put d x => exact h
  | noneResult d => exact h
  | decodeFailure d => exact h

/-! ### Every step keeps the good states -/

/-- A state that differs from a good one in no field of the invariant is good. -/
theorem StateInv.congr {s t : State} (h : StateInv s) (hp : t.params = s.params) (hv : t.v = s.v)
    (hm : t.iobuf = s.iobuf) (hq : t.fifo = s.fifo) (hi : t.inflight = s.inflight)
    (hf : t.status.fault = s.status.fault) (hc : t.status.faultCode = s.status.faultCode) :
    StateInv t where
  params := hp ▸ h.params
  values r := by rw [hp, State.reg_congr hv]; exact h.values r
  memory := hm ▸ h.memory
  queue := by rw [State.qcount, hq]; exact h.queue
  faultedEmpty hft := by rw [hi, hq]; exact h.faultedEmpty (hf ▸ hft)
  noFaultCode hft := by rw [hc]; exact h.noFaultCode (hf ▸ hft)
  aFaultCode hft := by rw [hc]; exact h.aFaultCode (hf ▸ hft)

/-- The fault codes are 1 to 7 (60_exceptions.md R422). -/
theorem faultBits_range (c : FaultCode) : 1 ≤ (faultBits c).toNat ∧ (faultBits c).toNat ≤ 7 := by
  cases c <;> decide

theorem StateInv.takeFault {s : State} (h : StateInv s) (c : FaultCode) : StateInv (takeFault c s) where
  params := h.params
  values := h.values
  memory := h.memory
  queue := by simp [State.qcount]
  faultedEmpty _ := ⟨rfl, rfl⟩
  noFaultCode hf := by simp at hf
  aFaultCode _ := faultBits_range c

theorem StateInv.retire_commit {s : State} {i : Instr} {e : Effect} (h : StateInv s)
    (hc : Commits s i e) : StateInv (retire (applyEffect e s)) := by
  obtain ⟨hp, hq, -, hf, hcode⟩ := applyEffect_frame e s
  exact
    { params := hp ▸ h.params
      values := by
        rw [retire_params, hp]
        exact hc.regs_kept (valueOk_kept h.params) rfl h.values
      memory := hc.memory_wf h.memory
      queue := by rw [State.qcount, retire_fifo, hq]; exact h.queue
      faultedEmpty := fun hft => ⟨rfl, by rw [retire_fifo, hq]; exact (h.faultedEmpty (hf ▸ hft)).2⟩
      noFaultCode := fun hft => hcode.trans (h.noFaultCode (hf ▸ hft))
      aFaultCode := fun hft => by
        rw [retire_status]
        show 1 ≤ (applyEffect e s).status.faultCode.toNat ∧ _
        rw [hcode]
        exact h.aFaultCode (hf ▸ hft) }

theorem StateInv.engineStep {s t : State} (h : StateInv s) (ht : engineStep s = .next t) : StateInv t := by
  obtain rfl | ⟨w, rest, -, hf, hq, rfl⟩ | ⟨c, rfl⟩ | ⟨w, i, e, -, -, hc, rfl⟩ := engineStep_cases ht
  · exact h
  · exact
      { params := h.params
        values := h.values
        memory := h.memory
        queue := by
          have := h.queue
          simp only [State.qcount, hq, List.length_cons] at this ⊢
          omega
        faultedEmpty := fun hft => by simp [hf] at hft
        noFaultCode := h.noFaultCode
        aFaultCode := h.aFaultCode }
  · exact h.takeFault c
  · exact h.retire_commit hc

/-- A state with every register EMPTY, no fault and an empty queue is good when its memory is. -/
theorem StateInv.of_reset {t : State} (hp : paramsOk t.params = true) (hv : t.v = State.reset.v)
    (hm : Memory.wf t.iobuf = true) (hq : t.fifo = []) (hs : t.status = Status.reset) : StateInv t where
  params := hp
  values r := by
    rw [State.reg_congr hv, show State.reset.reg r = .empty from State.reg_reset_v r]
    rfl
  memory := hm
  queue := by simp [State.qcount, hq]
  faultedEmpty hf := by simp [hs, Status.reset] at hf
  noFaultCode _ := by rw [hs]; rfl
  aFaultCode hf := by simp [hs, Status.reset] at hf

theorem StateInv.writeRegister {s : State} (h : StateInv s) (addr : BitVec 16) (data : Word) :
    StateInv (writeRegister s addr data) := by
  obtain ⟨-, hw⟩ | ⟨-, hw⟩ | ⟨-, hw⟩ | hw := writeRegister_cases s addr data <;> rw [hw]
  · obtain ⟨-, hw⟩ | ⟨d, f, hw⟩ | ⟨d, f, hw⟩ := writeCtrl_cases s data <;> rw [hw]
    · exact .of_reset h.params rfl h.memory rfl rfl
    · exact h.congr rfl rfl rfl rfl rfl rfl rfl
    · exact
        { params := h.params
          values := h.values
          memory := h.memory
          queue := h.queue
          faultedEmpty := fun hft => by simp at hft
          noFaultCode := fun _ => rfl
          aFaultCode := fun hft => by simp at hft }
  · exact h.congr rfl rfl rfl rfl rfl rfl rfl
  · obtain ⟨hq, hf, c, hw⟩ | hw := writeCmd_cases s data <;> rw [hw]
    · exact
        { params := h.params
          values := h.values
          memory := h.memory
          queue := by
            simp only [State.qcount, List.length_append, List.length_cons, List.length_nil] at hq ⊢
            omega
          faultedEmpty := fun hft => by simp [hf] at hft
          noFaultCode := h.noFaultCode
          aFaultCode := h.aFaultCode }
    · exact h.congr rfl rfl rfl rfl rfl rfl rfl
  · exact h

theorem StateInv.hostAccess {s : State} (h : StateInv s) (a : Access) : StateInv (hostAccess a s) := by
  obtain ha | ha | ⟨v, ha⟩ | ⟨-, -, ha⟩ | ⟨hrange, ha⟩ := hostAccess_cases a s <;> rw [ha]
  · exact h.congr rfl rfl rfl rfl rfl rfl rfl
  · exact h.congr rfl rfl rfl rfl rfl rfl rfl
  · exact h.congr rfl rfl rfl rfl rfl rfl rfl
  · exact (h.writeRegister a.addr a.wdata).congr rfl rfl rfl rfl rfl rfl rfl
  · exact
      { params := h.params
        values := h.values
        memory := Memory.wf_writeN _ hrange h.memory
        queue := h.queue
        faultedEmpty := h.faultedEmpty
        noFaultCode := h.noFaultCode
        aFaultCode := h.aFaultCode }

/-- Settles O55: the three turns of `step_cases`; a command's written value is canonical by
`valueOk_kept`. -/
theorem stepKeepsGoodStates : Obligations.StepKeepsGoodStates := by
  intro s t h ht
  have hturn : StateInv s.nextTurn := h.congr rfl rfl rfl rfl rfl rfl rfl
  obtain ⟨rest, -, rfl⟩ | ⟨a, rest, -, rfl⟩ | he := step_cases ht
  · exact .of_reset h.params rfl rfl rfl rfl
  · exact hturn.hostAccess a
  · exact hturn.engineStep he

/-- Settles O56. -/
theorem resetIsAGoodState : Obligations.ResetIsAGoodState :=
  .of_reset (by decide +kernel) rfl Memory.wf_reset rfl rfl

/-! ### How a register becomes EMPTY -/

/-- No function of a command gives EMPTY, and no load does (10_state.md R34). -/
theorem ne_empty_kept (s : State) : ValuesKept s fun x => x ≠ .empty := by
  have field : ∀ {t off} {R : CoeffReader} {x}, readField R t off = some x → x ≠ .empty := by
    rintro t off R x h rfl
    unfold readField at h
    split at h <;> simp at h
  refine
    { bool := by simp, fr := ?_, fq := ?_, fq2 := ?_, fq6 := ?_, fq12 := ?_, g1 := ?_, g2 := ?_, ed := ?_
      reduce := ?_, mulnr := ?_, conj := ?_, frob := ?_, load := ?_
      rawLoad := fun _ _ _ => field }
  any_goals constructor <;> simp
  · rintro x y - h rfl; unfold reduceValue at h; split at h <;> cases h
  · rintro x y - h rfl; unfold mulNonResidue at h; split at h <;> cases h
  · rintro x y - h rfl; unfold conjugate at h; split at h <;> cases h
  · rintro i x y - h rfl; unfold frobenius at h; split at h <;> cases h
  · rintro t off x h rfl
    unfold decodeCanonical at h
    dsimp only at h
    split at h
    case h_8 => exact field h rfl
    all_goals simp at h

/-- A write of a register empties a value register only by a soft reset. -/
theorem writeRegister_reg {s : State} {addr : BitVec 16} {data : Word} {r : Reg}
    (h : (writeRegister s addr data).reg r ≠ s.reg r) : addr = 0x0010 ∧ data.getLsbD 9 = true := by
  by_contra hsrst
  exact h (State.reg_congr (writeRegister_frame s hsrst).1 r)

/-- Settles O59: `step_cases`, and for a command `applyEffect_reg`; what it writes is not EMPTY. -/
theorem registersEmptyOnlyByNoneOrDecfail : Obligations.RegistersEmptyOnlyByNoneOrDecfail := by
  intro s t r ht hs hr
  obtain ⟨rest, hi, -⟩ | ⟨a, rest, hi, rfl⟩ | he := step_cases ht
  · exact .inl ⟨rest, hi⟩
  · have hne : ∀ {u : State}, u.reg r = .empty → u.reg r ≠ s.nextTurn.reg r := fun hu h => hs (h ▸ hu)
    obtain ha | ha | ⟨v, ha⟩ | ⟨hk, hl, ha⟩ | ⟨-, ha⟩ := hostAccess_cases a s.nextTurn <;>
      rw [ha] at hr
    · exact absurd rfl (hne hr)
    · exact absurd rfl (hne hr)
    · exact absurd rfl (hne hr)
    · obtain ⟨haddr, h9⟩ := writeRegister_reg (hne hr)
      obtain ⟨kind, addr, size, data⟩ := a
      obtain rfl : size = .b8 := size_of_legalAccess hl
      subst hk haddr
      exact .inr (.inl ⟨data, rest, hi, h9⟩)
    · exact absurd rfl (hne hr)
  · right; right
    obtain rfl | ⟨w, rest, -, -, -, rfl⟩ | ⟨c, rfl⟩ | ⟨w, i, e, hw, hd, hc, rfl⟩ := engineStep_cases he
    · exact absurd hr hs
    · exact absurd hr hs
    · exact absurd hr hs
    · obtain h | ⟨-, rfl | rfl⟩ | ⟨x, rfl, h⟩ := applyEffect_reg e s.nextTurn r
      · exact absurd (h ▸ hr) hs
      · obtain ⟨ty, a, hi⟩ := hc.none_result
        exact .inl ⟨w, ty, a, hw, by simpa [hd] using hi, givesNone_of_noneResult r _⟩
      · obtain ⟨ty, off, hi⟩ := hc.decode_failure
        exact .inr ⟨w, ty, off, hw, by simpa [hd] using hi, givesDecfail_of_decodeFailure r _⟩
      · exact absurd (h ▸ hr) (hc.put_kept (ne_empty_kept _) fun _ => id)

/-! ### What every register holds after a step -/

/-- A register write of the host leaves the value registers, or resets them. -/
theorem writeRegister_v (s : State) (addr : BitVec 16) (data : Word) :
    (writeRegister s addr data).v = s.v ∨ (writeRegister s addr data).v = State.reset.v := by
  obtain ⟨-, h⟩ | ⟨-, h⟩ | ⟨-, h⟩ | h := writeRegister_cases s addr data <;> rw [h]
  · obtain ⟨-, h⟩ | ⟨d, f, h⟩ | ⟨d, f, h⟩ := writeCtrl_cases s data <;> rw [h]
    · exact .inr rfl
    · exact .inl rfl
    · exact .inl rfl
  · exact .inl rfl
  · obtain ⟨-, -, c, h⟩ | h := writeCmd_cases s data <;> rw [h] <;> exact .inl rfl
  · exact .inl rfl

/-- A kept predicate that holds of EMPTY and of every register holds of every register after a step. -/
theorem step_regs_kept {s t : State} {Q : Value → Prop} (hQ : ValuesKept s.nextTurn Q)
    (hempty : Q .empty) (hs : ∀ r, Q (s.nextTurn.reg r)) (ht : step s = .next t) (r : Reg) :
    Q (t.reg r) := by
  have same : ∀ {u : State}, u.v = s.v → Q (u.reg r) := fun hv =>
    State.reg_congr (s := s.nextTurn) hv r ▸ hs r
  have reset : ∀ {u : State}, u.v = State.reset.v → Q (u.reg r) := fun hv => by
    rw [State.reg_congr hv, show State.reset.reg r = .empty from State.reg_reset_v r]
    exact hempty
  obtain ⟨rest, -, rfl⟩ | ⟨a, rest, -, rfl⟩ | he := step_cases ht
  · exact reset rfl
  · obtain ha | ha | ⟨v, ha⟩ | ⟨-, -, ha⟩ | ⟨-, ha⟩ := hostAccess_cases a s.nextTurn <;> rw [ha]
    · exact same rfl
    · exact same rfl
    · exact same rfl
    · obtain hv | hv := writeRegister_v s.nextTurn a.addr a.wdata
      · exact same hv
      · exact reset hv
    · exact same rfl
  · obtain rfl | ⟨w, rest, -, -, -, rfl⟩ | ⟨c, rfl⟩ | ⟨w, i, e, -, -, hc, rfl⟩ := engineStep_cases he
    · exact same rfl
    · exact same rfl
    · exact same rfl
    · exact hc.regs_kept hQ hempty hs r

end Sys2Proof.Machine
end

section
/-!
SUPPORT. The algebra of the complete addition on y²·z = x³ + b·z³ over a field (44_curve_group_law.md R320,
R327, R328, R335): sum and double of curve points are curve points, and never (0, 0, 0), when no element's
cube is -b.
-/

namespace Sys2Proof.Machine

section

variable {L : Type} [Field L]

/-- (x : y : z) is a point of y²·z = x³ + b·z³ (44_curve_group_law.md R334). -/
def WPoint (b x y z : L) : Prop := y ^ 2 * z = x ^ 3 + b * z ^ 3 ∧ (z = 0 → y ≠ 0)

theorem WPoint.x_eq_zero {b x y z : L} (h : WPoint b x y z) (hz : z = 0) : x = 0 := by
  have h1 := h.1
  subst hz
  simpa using h1.symm

/-- X of the sum (44_curve_group_law.md R327). -/
def sumX (b x₁ y₁ z₁ x₂ y₂ z₂ : L) : L :=
  (x₁ * y₂ + x₂ * y₁) * (y₁ * y₂ - 3 * b * z₁ * z₂) -
    3 * b * (y₁ * z₂ + y₂ * z₁) * (x₁ * z₂ + x₂ * z₁)

/-- Y of the sum (44_curve_group_law.md R327). -/
def sumY (b x₁ y₁ z₁ x₂ y₂ z₂ : L) : L :=
  (y₁ * y₂ + 3 * b * z₁ * z₂) * (y₁ * y₂ - 3 * b * z₁ * z₂) +
    9 * b * x₁ * x₂ * (x₁ * z₂ + x₂ * z₁)

/-- Z of the sum (44_curve_group_law.md R327). -/
def sumZ (b x₁ y₁ z₁ x₂ y₂ z₂ : L) : L :=
  (y₁ * z₂ + y₂ * z₁) * (y₁ * y₂ + 3 * b * z₁ * z₂) + 3 * x₁ * x₂ * (x₁ * y₂ + x₂ * y₁)

/-- The sum satisfies the curve equation: its equation lies in the ideal of the two points' equations. -/
theorem sum_equation {b x₁ y₁ z₁ x₂ y₂ z₂ : L} (h₁ : y₁ ^ 2 * z₁ = x₁ ^ 3 + b * z₁ ^ 3)
    (h₂ : y₂ ^ 2 * z₂ = x₂ ^ 3 + b * z₂ ^ 3) :
    sumY b x₁ y₁ z₁ x₂ y₂ z₂ ^ 2 * sumZ b x₁ y₁ z₁ x₂ y₂ z₂ =
      sumX b x₁ y₁ z₁ x₂ y₂ z₂ ^ 3 + b * sumZ b x₁ y₁ z₁ x₂ y₂ z₂ ^ 3 := by
  unfold sumX sumY sumZ
  grind

/-- The chord through P and -Q meets the curve in P - Q: for different x, `sumZ` is the numerator of
y(P - Q), so that it is 0 only when x(P - Q) is a cube root of -b. -/
theorem cube_of_sumZ_eq_zero {b u₁ v₁ u₂ v₂ : L} (h₁ : v₁ ^ 2 = u₁ ^ 3 + b)
    (h₂ : v₂ ^ 2 = u₂ ^ 3 + b) (hne : u₁ ≠ u₂) (hz : sumZ b u₁ v₁ 1 u₂ v₂ 1 = 0) :
    ∃ t, t ^ 3 = -b := by
  have hd : u₁ - u₂ ≠ 0 := sub_ne_zero.2 hne
  obtain ⟨m, hm⟩ : ∃ m, m * (u₁ - u₂) = v₁ + v₂ := ⟨_, div_mul_cancel₀ _ hd⟩
  obtain ⟨t, ht⟩ : ∃ t, t = m ^ 2 - u₁ - u₂ := ⟨_, rfl⟩
  unfold sumZ at hz
  have hy : m * (t - u₁) + v₁ = 0 := by
    refine (mul_eq_zero.1 ?_).resolve_left (pow_ne_zero 3 hd)
    subst ht
    linear_combination hz + (2 * (v₁ + v₂) - v₁) * h₁ + (2 * v₁ + v₂) * h₂ +
      ((m * (u₁ - u₂)) ^ 2 + m * (u₁ - u₂) * (v₁ + v₂) + (v₁ + v₂) ^ 2 -
        (2 * u₁ + u₂) * (u₁ - u₂) ^ 2) * hm
  refine ⟨t, mul_left_cancel₀ hd ?_⟩
  subst ht
  linear_combination (u₁ - u₂) * (m * (m ^ 2 - u₁ - u₂ - u₁) + v₁) * hy -
    (m ^ 2 - u₁ - u₂ - u₂) * h₁ + (m ^ 2 - u₁ - u₂ - u₁) * h₂ +
    (v₂ - v₁ + m * (u₁ - u₂)) * (m ^ 2 - u₁ - u₂ - u₁) * hm

/-- The tangent in P meets the curve in -2P: for Q = -P, `sumY` is the numerator of y(2P), so that it is 0
only when x(2P) is a cube root of -b. -/
theorem cube_of_sumY_eq_zero {b u v : L} (h2 : (2 : L) ≠ 0) (h : v ^ 2 = u ^ 3 + b) (hv : v ≠ 0)
    (hy : sumY b u v 1 u (-v) 1 = 0) : ∃ t, t ^ 3 = -b := by
  have hd : 2 * v ≠ 0 := mul_ne_zero h2 hv
  obtain ⟨m, hm⟩ : ∃ m, m * (2 * v) = 3 * u ^ 2 := ⟨_, div_mul_cancel₀ _ hd⟩
  unfold sumY at hy
  have hn : m * (m ^ 2 - 2 * u - u) + v = 0 := by
    refine (mul_eq_zero.1 ?_).resolve_left (pow_ne_zero 3 hd)
    linear_combination -hy + (9 * (v ^ 2 - u ^ 3 + b) - 18 * u ^ 3) * h +
      ((m * (2 * v)) ^ 2 + m * (2 * v) * (3 * u ^ 2) + 9 * u ^ 4 - 12 * u * v ^ 2) * hm
  exact ⟨m ^ 2 - 2 * u, by
    linear_combination (m * (m ^ 2 - 2 * u - u) + v) * hn - h - (m ^ 2 - 2 * u - u) * hm⟩

/-- No two finite points of a curve without a cube root of -b have the sum (0, 0, 0). -/
theorem sumY_ne_zero_of_finite {b u₁ v₁ u₂ v₂ : L} (h2 : (2 : L) ≠ 0) (hb : ∀ t : L, t ^ 3 ≠ -b)
    (h₁ : v₁ ^ 2 = u₁ ^ 3 + b) (h₂ : v₂ ^ 2 = u₂ ^ 3 + b) (hz : sumZ b u₁ v₁ 1 u₂ v₂ 1 = 0) :
    sumY b u₁ v₁ 1 u₂ v₂ 1 ≠ 0 := by
  intro hy
  by_cases hu : u₁ = u₂
  · subst hu
    have hv : v₁ ≠ 0 := fun h => hb u₁ (by rw [h] at h₁; linear_combination -h₁)
    obtain rfl | rfl : v₂ = v₁ ∨ v₂ = -v₁ := sq_eq_sq_iff_eq_or_eq_neg.1 (h₂.trans h₁.symm)
    · have h8 : 2 ^ 3 * v₂ ^ 3 = 0 := by
        unfold sumZ at hz
        linear_combination hz + 6 * v₂ * h₁
      exact mul_ne_zero (pow_ne_zero 3 h2) (pow_ne_zero 3 hv) h8
    · obtain ⟨t, ht⟩ := cube_of_sumY_eq_zero h2 h₁ hv hy
      exact hb t ht
  · obtain ⟨t, ht⟩ := cube_of_sumZ_eq_zero h₁ h₂ hu hz
    exact hb t ht

/-- A finite curve point in its affine coordinates. -/
theorem WPoint.affine {b x y z : L} (h : WPoint b x y z) (hz : z ≠ 0) :
    ∃ u v, x = u * z ∧ y = v * z ∧ v ^ 2 = u ^ 3 + b := by
  refine ⟨x / z, y / z, (div_mul_cancel₀ x hz).symm, (div_mul_cancel₀ y hz).symm, ?_⟩
  have h1 := h.1
  field_simp
  linear_combination h1

theorem WPoint.y_ne_zero {b x y z : L} (h : WPoint b x y z) (hb : ∀ t : L, t ^ 3 ≠ -b) : y ≠ 0 := by
  by_cases hz : z = 0
  · exact h.2 hz
  · obtain ⟨u, v, rfl, rfl, hc⟩ := h.affine hz
    refine mul_ne_zero (fun hv => hb u ?_) hz
    rw [hv] at hc
    linear_combination -hc

/-- The sum of two points is a point (44_curve_group_law.md R335). -/
theorem WPoint.add {b x₁ y₁ z₁ x₂ y₂ z₂ : L} (h2 : (2 : L) ≠ 0) (hb : ∀ t : L, t ^ 3 ≠ -b)
    (h₁ : WPoint b x₁ y₁ z₁) (h₂ : WPoint b x₂ y₂ z₂) :
    WPoint b (sumX b x₁ y₁ z₁ x₂ y₂ z₂) (sumY b x₁ y₁ z₁ x₂ y₂ z₂) (sumZ b x₁ y₁ z₁ x₂ y₂ z₂) := by
  refine ⟨sum_equation h₁.1 h₂.1, fun hz => ?_⟩
  have hy₁ := h₁.y_ne_zero hb
  have hy₂ := h₂.y_ne_zero hb
  by_cases hz₁ : z₁ = 0
  · have hy : sumY b x₁ y₁ z₁ x₂ y₂ z₂ = (y₁ * y₂) ^ 2 := by
      rw [h₁.x_eq_zero hz₁, hz₁]; unfold sumY; ring
    rw [hy]
    exact pow_ne_zero 2 (mul_ne_zero hy₁ hy₂)
  by_cases hz₂ : z₂ = 0
  · have hy : sumY b x₁ y₁ z₁ x₂ y₂ z₂ = (y₁ * y₂) ^ 2 := by
      rw [h₂.x_eq_zero hz₂, hz₂]; unfold sumY; ring
    rw [hy]
    exact pow_ne_zero 2 (mul_ne_zero hy₁ hy₂)
  obtain ⟨u₁, v₁, rfl, rfl, hc₁⟩ := h₁.affine hz₁
  obtain ⟨u₂, v₂, rfl, rfl, hc₂⟩ := h₂.affine hz₂
  have hscale : (z₁ * z₂) ^ 2 ≠ 0 := pow_ne_zero 2 (mul_ne_zero hz₁ hz₂)
  have hsz : sumZ b (u₁ * z₁) (v₁ * z₁) z₁ (u₂ * z₂) (v₂ * z₂) z₂ =
      (z₁ * z₂) ^ 2 * sumZ b u₁ v₁ 1 u₂ v₂ 1 := by unfold sumZ; ring
  have hsy : sumY b (u₁ * z₁) (v₁ * z₁) z₁ (u₂ * z₂) (v₂ * z₂) z₂ =
      (z₁ * z₂) ^ 2 * sumY b u₁ v₁ 1 u₂ v₂ 1 := by unfold sumY; ring
  rw [hsz] at hz
  rw [hsy]
  exact mul_ne_zero hscale
    (sumY_ne_zero_of_finite h2 hb hc₁ hc₂ ((mul_eq_zero.1 hz).resolve_left hscale))

/-- X of the double (44_curve_group_law.md R328). -/
def dblX (b x y z : L) : L := 2 * x * y * (y ^ 2 - 9 * b * z ^ 2)

/-- Y of the double (44_curve_group_law.md R328). -/
def dblY (b y z : L) : L := 24 * b * z ^ 2 * y ^ 2 + (y ^ 2 - 9 * b * z ^ 2) * (y ^ 2 + 3 * b * z ^ 2)

/-- Z of the double (44_curve_group_law.md R328). -/
def dblZ (y z : L) : L := 8 * y ^ 3 * z

/-- The double of a point is a point (44_curve_group_law.md R335). -/
theorem WPoint.dbl {b x y z : L} (h2 : (2 : L) ≠ 0) (hb : ∀ t : L, t ^ 3 ≠ -b) (h : WPoint b x y z) :
    WPoint b (dblX b x y z) (dblY b y z) (dblZ y z) := by
  have hy := h.y_ne_zero hb
  refine ⟨?_, fun hz => ?_⟩
  · unfold dblX dblY dblZ
    linear_combination (8 * y ^ 3 * (y ^ 2 - 9 * b * z ^ 2) ^ 3) * h.1
  · have h8 : (2 : L) ^ 3 * y ^ 3 ≠ 0 := mul_ne_zero (pow_ne_zero 3 h2) (pow_ne_zero 3 hy)
    have hz0 : z = 0 := by
      have h0 : (2 : L) ^ 3 * y ^ 3 * z = 0 := by unfold dblZ at hz; linear_combination hz
      exact (mul_eq_zero.1 h0).resolve_left h8
    have hyy : dblY b y z = y ^ 4 := by rw [hz0]; unfold dblY; ring
    rw [hyy]
    exact pow_ne_zero 4 hy

/-- The negative of a point is a point (44_curve_group_law.md R331). -/
theorem WPoint.neg {b x y z : L} (h : WPoint b x y z) : WPoint b x (-y) z :=
  ⟨by rw [neg_sq]; exact h.1, fun hz => neg_ne_zero.2 (h.2 hz)⟩

end

end Sys2Proof.Machine
end

section
/-!
The point functions of a Weierstrass group keep the points of the curve (44_curve_group_law.md R335). The
field's functions are carried to the field they read as, where the algebra is WeierstrassAlgebra's.
-/

namespace Sys2Proof.Machine

/-- `σ` writes the elements of a commutative ring as the elements of a field's functions that satisfy
`ok`: the inverse of a reading. -/
structure FieldOps.Encodes {K L : Type} [CommRing L] (F : FieldOps K) (ok : K → Prop) (σ : L → K) :
    Prop where
  ok_iff : ∀ a, ok a ↔ ∃ x, σ x = a
  zero : F.zero = σ 0
  one : F.one = σ 1
  add : ∀ x y, F.add (σ x) (σ y) = σ (x + y)
  sub : ∀ x y, F.sub (σ x) (σ y) = σ (x - y)
  dbl : ∀ x, F.dbl (σ x) = σ (x + x)
  neg : ∀ x, F.neg (σ x) = σ (-x)
  mul : ∀ x y, F.mul (σ x) (σ y) = σ (x * y)
  sqr : ∀ x, F.sqr (σ x) = σ (x * x)
  eq_iff : ∀ x y, F.eq (σ x) (σ y) = true ↔ x = y
  isZero_iff : ∀ x, F.isZero (σ x) = true ↔ x = 0

/-- A reading is a bijection, so its inverse writes what it reads. -/
theorem FieldOps.Reads.exists_encodes {K L : Type} [CommRing L] {F : FieldOps K} {ok : K → Prop}
    {φ : K → L} (h : F.Reads ok φ) : ∃ σ : L → K, (∀ x, φ (σ x) = x) ∧ F.Encodes ok σ := by
  choose σ hok hσ using h.surj
  have hk := h.keeps
  have key : ∀ {a : K} {x : L}, ok a → φ a = x → a = σ x := fun ha hx =>
    h.inj _ _ ha (hok _) (hx.trans (hσ _).symm)
  have hinj : ∀ x y, σ x = σ y ↔ x = y := fun x y =>
    ⟨fun hxy => by rw [← hσ x, ← hσ y, hxy], fun hxy => hxy ▸ rfl⟩
  have hzero : F.zero = σ 0 := key hk.zero h.zero
  refine ⟨σ, hσ,
    { ok_iff := fun a => ⟨fun ha => ⟨φ a, (key ha rfl).symm⟩, ?_⟩
      zero := hzero
      one := key hk.one h.one
      add := fun x y => key (hk.add _ _ (hok x) (hok y)) (by rw [h.add _ _ (hok x) (hok y), hσ, hσ])
      sub := fun x y => key (hk.sub _ _ (hok x) (hok y)) (by rw [h.sub _ _ (hok x) (hok y), hσ, hσ])
      dbl := fun x => key (hk.dbl _ (hok x)) (by rw [h.dbl _ (hok x), hσ])
      neg := fun x => key (hk.neg _ (hok x)) (by rw [h.neg _ (hok x), hσ])
      mul := fun x y => key (hk.mul _ _ (hok x) (hok y)) (by rw [h.mul _ _ (hok x) (hok y), hσ, hσ])
      sqr := fun x => key (hk.sqr _ (hok x)) (by rw [h.sqr _ (hok x), hσ])
      eq_iff := fun x y => (h.eq_iff _ _).trans (hinj x y)
      isZero_iff := fun x => (h.isZero_iff _).trans (by rw [hzero, hinj]) }⟩
  rintro ⟨x, rfl⟩
  exact hok x

section

variable {K L : Type} [Field L] {F : FieldOps K} {ok : K → Bool} {σ : L → K} {b : L}
  (h : F.Encodes (fun a => ok a = true) σ)

include h

theorem FieldOps.Encodes.isZero_eq_false_iff (x : L) : F.isZero (σ x) = false ↔ x ≠ 0 := by
  rw [← Bool.not_eq_true, h.isZero_iff]

/-- The steps of `add_W` compute the sum (44_curve_group_law.md R327). -/
theorem addW_eq (x₁ y₁ z₁ x₂ y₂ z₂ : L) :
    addW F (σ (b + b + b)) ⟨σ x₁, σ y₁, σ z₁⟩ ⟨σ x₂, σ y₂, σ z₂⟩ =
      ⟨σ (sumX b x₁ y₁ z₁ x₂ y₂ z₂), σ (sumY b x₁ y₁ z₁ x₂ y₂ z₂), σ (sumZ b x₁ y₁ z₁ x₂ y₂ z₂)⟩ := by
  simp only [addW, h.add, h.sub, h.mul, ProjPoint.mk.injEq]
  refine ⟨congrArg σ ?_, congrArg σ ?_, congrArg σ ?_⟩
  · unfold sumX; ring
  · unfold sumY; ring
  · unfold sumZ; ring

/-- The steps of `dbl_W` compute the double (44_curve_group_law.md R328). -/
theorem dblW_eq (x y z : L) :
    dblW F (σ (b + b + b)) ⟨σ x, σ y, σ z⟩ = ⟨σ (dblX b x y z), σ (dblY b y z), σ (dblZ y z)⟩ := by
  simp only [dblW, h.add, h.sub, h.mul, ProjPoint.mk.injEq]
  refine ⟨congrArg σ ?_, congrArg σ ?_, congrArg σ ?_⟩
  · unfold dblX; ring
  · unfold dblY; ring
  · unfold dblZ; ring

/-- The projective curve test is the curve's equation (44_curve_group_law.md R334). -/
theorem onCurveWP_iff (x y z : L) :
    onCurveWP F (σ b) ⟨σ x, σ y, σ z⟩ = true ↔ WPoint b x y z := by
  unfold onCurveWP WPoint
  by_cases hz : z = 0
  · subst hz
    rw [if_pos ((h.isZero_iff 0).2 rfl)]
    simp [h.isZero_iff, h.isZero_eq_false_iff, @eq_comm L 0]
  · rw [if_neg (by simpa [h.isZero_iff] using hz)]
    simp only [h.sqr, h.mul, h.add, h.eq_iff, hz, false_implies, and_true]
    ring_nf

theorem validProj_iff {p : ProjPoint K} : ValidProj F ok (σ b) p ↔
    ∃ x y z, p = ⟨σ x, σ y, σ z⟩ ∧ WPoint b x y z := by
  obtain ⟨px, py, pz⟩ := p
  simp only [ValidProj, projOk, Bool.and_eq_true, h.ok_iff]
  constructor
  · rintro ⟨⟨⟨⟨x, rfl⟩, y, rfl⟩, z, rfl⟩, hc⟩
    exact ⟨x, y, z, rfl, (onCurveWP_iff h x y z).1 hc⟩
  · rintro ⟨x, y, z, hp, hc⟩
    cases hp
    exact ⟨⟨⟨⟨x, rfl⟩, y, rfl⟩, z, rfl⟩, (onCurveWP_iff h x y z).2 hc⟩

/-- A canonical affine point on the curve: the flagged identity or a solution of the curve's equation
(44_curve_group_law.md R321, R334). -/
theorem validAffine_iff [DecidableEq K] {a : AffinePoint K} :
    affineOk F ok a = true ∧ onCurveWA F (σ b) a = true ↔
      a = ⟨σ 0, σ 1, true⟩ ∨ ∃ x y, a = ⟨σ x, σ y, false⟩ ∧ y ^ 2 = x ^ 3 + b := by
  obtain ⟨ax, ay, inf⟩ := a
  have hok : ∀ x, ok (σ x) = true := fun x => (h.ok_iff _).2 ⟨x, rfl⟩
  cases inf with
  | true =>
    simp only [affineOk, onCurveWA, h.zero, h.one]
    constructor
    · rintro ⟨hn, -⟩
      simp at hn
      simp [hn]
    · rintro (hn | ⟨x, y, hn, -⟩)
      · cases hn; simp [hok]
      · cases hn
  | false =>
    simp only [affineOk, onCurveWA, Bool.and_eq_true, h.ok_iff]
    constructor
    · rintro ⟨⟨⟨⟨x, rfl⟩, y, rfl⟩, -⟩, hc⟩
      refine .inr ⟨x, y, rfl, ?_⟩
      simp only [h.sqr, h.mul, h.add, h.eq_iff, Bool.false_or] at hc
      linear_combination hc
    · rintro (hn | ⟨x, y, hn, hc⟩)
      · cases hn
      · cases hn
        refine ⟨⟨⟨⟨x, rfl⟩, y, rfl⟩, rfl⟩, ?_⟩
        simp only [h.sqr, h.mul, h.add, h.eq_iff, Bool.false_or]
        linear_combination hc

/-- The point functions of a Weierstrass group keep the points of its curve, when the field has an inverse
for every element but 0 and no cube root of -b (44_curve_group_law.md R335). -/
theorem weierstrassOps_keeps_points [DecidableEq K] (h2 : (2 : L) ≠ 0) (hb : ∀ t : L, t ^ 3 ≠ -b)
    (hinv : ∀ x : L, x ≠ 0 → ∃ y, F.inv (σ x) = some (σ y) ∧ x * y = 1) :
    (weierstrassOps F (σ b) (σ (b + b + b))).Keeps
      (fun a => affineOk F ok a = true ∧ onCurveWA F (σ b) a = true) (ValidProj F ok (σ b)) := by
  simp only [validAffine_iff h]
  constructor
  case identityA => exact .inl (by simp [weierstrassOps, h.zero, h.one])
  case identityE =>
    exact (validProj_iff h).2 ⟨0, 1, 0, by simp [weierstrassOps, h.zero, h.one], by simp [WPoint]⟩
  case toProj =>
    rintro a (rfl | ⟨x, y, rfl, hc⟩)
    · exact (validProj_iff h).2 ⟨0, 1, 0, by simp [weierstrassOps, toprojW, h.zero, h.one], by simp [WPoint]⟩
    · refine (validProj_iff h).2 ⟨x, y, 1, by simp [weierstrassOps, toprojW, h.one], ?_, by simp⟩
      linear_combination hc
  case toAff =>
    intro p a hp ha
    obtain ⟨x, y, z, rfl, hc⟩ := (validProj_iff h).1 hp
    obtain rfl : toaffW F ⟨σ x, σ y, σ z⟩ = a := by simpa [weierstrassOps] using ha
    unfold toaffW
    by_cases hz : z = 0
    · rw [(h.isZero_iff z).2 hz]
      exact .inl (by simp [h.zero, h.one])
    · obtain ⟨u, v, rfl, rfl, huv⟩ := hc.affine hz
      obtain ⟨z', hz', hzz⟩ := hinv z hz
      rw [(h.isZero_eq_false_iff z).2 hz, hz']
      refine .inr ⟨u, v, ?_, huv⟩
      simp only [h.mul, mul_assoc, hzz, mul_one]
  case add =>
    intro p q hp hq
    obtain ⟨x₁, y₁, z₁, rfl, hc₁⟩ := (validProj_iff h).1 hp
    obtain ⟨x₂, y₂, z₂, rfl, hc₂⟩ := (validProj_iff h).1 hq
    exact (validProj_iff h).2 ⟨_, _, _, addW_eq h .., hc₁.add h2 hb hc₂⟩
  case dbl =>
    intro p hp
    obtain ⟨x, y, z, rfl, hc⟩ := (validProj_iff h).1 hp
    exact (validProj_iff h).2 ⟨_, _, _, dblW_eq h .., hc.dbl h2 hb⟩
  case negE =>
    intro p hp
    obtain ⟨x, y, z, rfl, hc⟩ := (validProj_iff h).1 hp
    exact (validProj_iff h).2 ⟨x, -y, z, by simp [weierstrassOps, negWP, h.neg], hc.neg⟩
  case negA =>
    rintro a a' (rfl | ⟨x, y, rfl, hc⟩) ha
    · simp [weierstrassOps, negWA] at ha
    · obtain rfl : (⟨σ x, σ (-y), false⟩ : AffinePoint K) = a' := by
        simpa [weierstrassOps, negWA, h.neg] using ha
      exact .inr ⟨x, -y, rfl, by rw [neg_sq]; exact hc⟩

end

end Sys2Proof.Machine
end

section
/-!
The point functions of ED keep the points of a·x² + y² = 1 + d·x²·y² (44_curve_group_law.md R329, R330,
R335): the denominators 1 ± d·x₁·x₂·y₁·y₂ of the addition law are never 0 when a is a square and d is not.
-/

namespace Sys2Proof.Machine

open Config

/-! ### The algebra of the addition law -/

section

variable {L : Type} [Field L]

/-- (x, y, t, z) is an extended point of the curve (44_curve_group_law.md R323, R334). -/
def EdPoint (a d x y t z : L) : Prop :=
  z ≠ 0 ∧ x * y = t * z ∧ (a * x ^ 2 + y ^ 2) * z ^ 2 = z ^ 4 + d * x ^ 2 * y ^ 2

/-- An extended point in its affine coordinates. -/
theorem EdPoint.affine {a d x y t z : L} (h : EdPoint a d x y t z) :
    ∃ u v, x = u * z ∧ y = v * z ∧ t = u * v * z ∧ a * u ^ 2 + v ^ 2 = 1 + d * u ^ 2 * v ^ 2 := by
  obtain ⟨hz, ht, hc⟩ := h
  refine ⟨x / z, y / z, (div_mul_cancel₀ x hz).symm, (div_mul_cancel₀ y hz).symm, ?_, ?_⟩
  · field_simp
    linear_combination -ht
  · field_simp
    linear_combination hc

theorem EdPoint.of_affine {a d u v z : L} (hz : z ≠ 0)
    (hc : a * u ^ 2 + v ^ 2 = 1 + d * u ^ 2 * v ^ 2) :
    EdPoint a d (u * z) (v * z) (u * v * z) z :=
  ⟨hz, by ring, by linear_combination z ^ 4 * hc⟩

/-- The addition law is complete: for two points, d·x₁·x₂·y₁·y₂ is neither 1 nor -1 when a is a nonzero
square and d is no square. Otherwise (c·x₁ + e·y₁)² = d·(x₁·y₁·(c·x₂ + y₂))² with e = ±1, and the same with
the sign of c changed, so that both factors c·x₂ ± y₂ are 0 (44_curve_group_law.md R335). -/
theorem edwards_complete {c d u₁ v₁ u₂ v₂ e : L} (h2 : (2 : L) ≠ 0) (hd : ∀ r : L, r * r ≠ d)
    (h₁ : c * c * u₁ ^ 2 + v₁ ^ 2 = 1 + d * u₁ ^ 2 * v₁ ^ 2)
    (h₂ : c * c * u₂ ^ 2 + v₂ ^ 2 = 1 + d * u₂ ^ 2 * v₂ ^ 2) (he : e * e = 1) :
    d * u₁ * u₂ * v₁ * v₂ ≠ e := by
  intro heq
  have he0 : e ≠ 0 := fun h => by simp [h] at he
  have huv : u₁ * v₁ ≠ 0 := fun h => he0 (by linear_combination -heq + d * u₂ * v₂ * h)
  have square : ∀ k : L, (c * u₁ + k * e * v₁) ^ 2 = d * (u₁ * v₁ * (c * u₂ + k * v₂)) ^ 2 →
      c * u₂ + k * v₂ = 0 := by
    intro k hk
    by_contra hne
    have hden : u₁ * v₁ * (c * u₂ + k * v₂) ≠ 0 := mul_ne_zero huv hne
    refine hd ((c * u₁ + k * e * v₁) / (u₁ * v₁ * (c * u₂ + k * v₂))) ?_
    rw [div_mul_div_comm, div_eq_iff (mul_ne_zero hden hden)]
    linear_combination hk
  have key : ∀ k : L, k * k = 1 →
      (c * u₁ + k * e * v₁) ^ 2 = d * (u₁ * v₁ * (c * u₂ + k * v₂)) ^ 2 := by
    intro k hk
    linear_combination h₁ + v₁ ^ 2 * (e * e * hk + he) - d * u₁ ^ 2 * v₁ ^ 2 * h₂ -
      d * u₁ ^ 2 * v₁ ^ 2 * v₂ ^ 2 * hk - he -
      (d * u₁ * u₂ * v₁ * v₂ + e + 2 * c * k * u₁ * v₁) * heq
  have hplus := square 1 (key 1 (by ring))
  have hminus := square (-1) (key (-1) (by ring))
  have hv : v₂ = 0 := by
    refine (mul_eq_zero.1 ?_).resolve_left h2
    linear_combination hplus - hminus
  exact he0 (by rw [← heq, hv]; ring)

/-- The sum of two points is a point (44_curve_group_law.md R329, R335). -/
theorem EdPoint.add {c d x₁ y₁ t₁ z₁ x₂ y₂ t₂ z₂ : L} (h2 : (2 : L) ≠ 0) (hd : ∀ r : L, r * r ≠ d)
    (h₁ : EdPoint (c * c) d x₁ y₁ t₁ z₁) (h₂ : EdPoint (c * c) d x₂ y₂ t₂ z₂)
    {e f g h : L} (he : e = x₁ * y₂ + y₁ * x₂) (hf : f = z₁ * z₂ - d * t₁ * t₂)
    (hg : g = z₁ * z₂ + d * t₁ * t₂) (hh : h = y₁ * y₂ - c * c * (x₁ * x₂)) :
    EdPoint (c * c) d (e * f) (g * h) (e * h) (f * g) := by
  have hz : z₁ * z₂ ≠ 0 := mul_ne_zero h₁.1 h₂.1
  obtain ⟨u₁, v₁, rfl, rfl, rfl, hc₁⟩ := h₁.affine
  obtain ⟨u₂, v₂, rfl, rfl, rfl, hc₂⟩ := h₂.affine
  have hf' : f = z₁ * z₂ * (1 - d * u₁ * u₂ * v₁ * v₂) := by rw [hf]; ring
  have hg' : g = z₁ * z₂ * (1 + d * u₁ * u₂ * v₁ * v₂) := by rw [hg]; ring
  have hf0 : f ≠ 0 := by
    rw [hf']
    refine mul_ne_zero hz (sub_ne_zero.2 fun h => ?_)
    exact edwards_complete h2 hd hc₁ hc₂ (one_mul 1) h.symm
  have hg0 : g ≠ 0 := by
    rw [hg']
    refine mul_ne_zero hz fun h => ?_
    exact edwards_complete (e := -1) h2 hd hc₁ hc₂ (by ring) (by linear_combination h)
  refine ⟨mul_ne_zero hf0 hg0, by ring, ?_⟩
  have hcurve : c * c * e ^ 2 * f ^ 2 + g ^ 2 * h ^ 2 = f ^ 2 * g ^ 2 + d * e ^ 2 * h ^ 2 := by
    subst he hf hg hh
    clear hf0 hg0 hf' hg'
    grind
  linear_combination f ^ 2 * g ^ 2 * hcurve

/-- Changing the sign of every coordinate gives another representative of the same point. -/
theorem EdPoint.neg_all {a d x y t z : L} (h : EdPoint a d x y t z) : EdPoint a d (-x) (-y) (-t) (-z) := by
  obtain ⟨hz, ht, hc⟩ := h
  exact ⟨neg_ne_zero.2 hz, by linear_combination ht, by linear_combination hc⟩

/-- The negative of a point is a point (44_curve_group_law.md R331). -/
theorem EdPoint.neg {a d x y t z : L} (h : EdPoint a d x y t z) : EdPoint a d (-x) y (-t) z := by
  obtain ⟨hz, ht, hc⟩ := h
  exact ⟨hz, by linear_combination -ht, by linear_combination hc⟩

/-- The double of a point is a point: its terms are those of the sum of the point with itself, two of them
with the other sign (44_curve_group_law.md R330, R335). -/
theorem EdPoint.dbl {c d x y t z : L} (h2 : (2 : L) ≠ 0) (hd : ∀ r : L, r * r ≠ d)
    (hp : EdPoint (c * c) d x y t z) {e f g h : L} (he : e = 2 * x * y)
    (hf : f = c * c * x ^ 2 + y ^ 2 - 2 * z ^ 2) (hg : g = c * c * x ^ 2 + y ^ 2)
    (hh : h = c * c * x ^ 2 - y ^ 2) : EdPoint (c * c) d (e * f) (g * h) (e * h) (f * g) := by
  have hterm : c * c * x ^ 2 + y ^ 2 = z * z + d * t * t := by
    obtain ⟨hz, ht, hc⟩ := hp
    refine mul_left_cancel₀ (pow_ne_zero 2 hz) ?_
    linear_combination hc + d * (x * y + t * z) * ht
  have hsum := (EdPoint.add h2 hd hp hp (e := e) (f := -f) (g := g) (h := -h)
    (by rw [he]; ring) (by rw [hf, hterm]; ring) (by rw [hg, hterm]) (by rw [hh]; ring)).neg_all
  simpa using hsum

end

/-! ### The point functions -/

section

variable {P : ParamStore} {L : Type} [Field L] {σ : L → Fr} {c d : L}
  (h : (frOps P).Encodes (fun m => canonical P.fr m = true) σ) (ha : P.edA = σ (c * c)) (hd : P.edD = σ d)

include h ha hd

/-- The extended curve test is the curve's equations (44_curve_group_law.md R334). -/
theorem validExt_iff {p : EdExtended} : ValidExt P p ↔
    ∃ x y t z, p = ⟨σ x, σ y, σ t, σ z⟩ ∧ EdPoint (c * c) d x y t z := by
  have test : ∀ x y t z, onCurveEE P ⟨σ x, σ y, σ t, σ z⟩ = true ↔ EdPoint (c * c) d x y t z := by
    intro x y t z
    simp only [onCurveEE, ha, hd, h.sqr, h.mul, h.add, Bool.and_eq_true, h.eq_iff, Bool.not_eq_true',
      h.isZero_eq_false_iff, EdPoint, and_assoc]
    ring_nf
  obtain ⟨px, py, pt, pz⟩ := p
  simp only [ValidExt, edExtendedOk, Bool.and_eq_true, h.ok_iff]
  constructor
  · rintro ⟨⟨⟨⟨⟨x, rfl⟩, y, rfl⟩, t, rfl⟩, z, rfl⟩, hc⟩
    exact ⟨x, y, t, z, rfl, (test x y t z).1 hc⟩
  · rintro ⟨x, y, t, z, hp, hc⟩
    cases hp
    exact ⟨⟨⟨⟨⟨x, rfl⟩, y, rfl⟩, t, rfl⟩, z, rfl⟩, (test x y t z).2 hc⟩

/-- The affine curve test is the curve's equation (44_curve_group_law.md R334). -/
theorem validEdAffine_iff {a : EdAffine} : edAffineOk P a = true ∧ onCurveEA P a = true ↔
    ∃ u v, a = ⟨σ u, σ v⟩ ∧ c * c * u ^ 2 + v ^ 2 = 1 + d * u ^ 2 * v ^ 2 := by
  have test : ∀ u v, onCurveEA P ⟨σ u, σ v⟩ = true ↔
      c * c * u ^ 2 + v ^ 2 = 1 + d * u ^ 2 * v ^ 2 := by
    intro u v
    simp only [onCurveEA, ha, hd, h.one, h.sqr, h.mul, h.add, h.eq_iff]
    ring_nf
  obtain ⟨ax, ay⟩ := a
  simp only [edAffineOk, Bool.and_eq_true, h.ok_iff]
  constructor
  · rintro ⟨⟨⟨u, rfl⟩, v, rfl⟩, hc⟩
    exact ⟨u, v, rfl, (test u v).1 hc⟩
  · rintro ⟨u, v, hp, hc⟩
    cases hp
    exact ⟨⟨⟨u, rfl⟩, v, rfl⟩, (test u v).2 hc⟩

/-- The point functions of ED keep the points of its curve (44_curve_group_law.md R335). -/
theorem edOps_keeps_points (h2 : (2 : L) ≠ 0) (hns : ∀ r : L, r * r ≠ d)
    (hinv : ∀ x : L, x ≠ 0 → ∃ y, finv P.fr (σ x) = some (σ y) ∧ x * y = 1) :
    (edOps P).Keeps (fun a => edAffineOk P a = true ∧ onCurveEA P a = true) (ValidExt P) := by
  have hone : P.fr.one = σ 1 := h.one
  have hzero : (0 : Fr) = σ 0 := h.zero
  have hmul : ∀ x y, montMul P.fr (σ x) (σ y) = σ (x * y) := h.mul
  have hneg : ∀ x, fneg P.fr (σ x) = σ (-x) := h.neg
  simp only [validEdAffine_iff h ha hd]
  constructor
  case identityA => exact ⟨0, 1, by simp only [edOps, hone, hzero], by ring⟩
  case identityE =>
    exact (validExt_iff h ha hd).2 ⟨0, 1, 0, 1, by simp only [edOps, hone, hzero], by simp [EdPoint]⟩
  case toProj =>
    rintro a ⟨u, v, rfl, hc⟩
    refine (validExt_iff h ha hd).2 ⟨u, v, u * v, 1, by simp only [edOps, toprojE, hone, hmul], ?_⟩
    simpa using EdPoint.of_affine one_ne_zero hc
  case toAff =>
    intro p a hp hpa
    obtain ⟨x, y, t, z, rfl, hc⟩ := (validExt_iff h ha hd).1 hp
    obtain ⟨u, v, rfl, rfl, rfl, huv⟩ := hc.affine
    obtain ⟨z', hz', hzz⟩ := hinv z hc.1
    simp only [edOps, toaffE, hz', hmul, mul_assoc, hzz, mul_one, Option.some.injEq] at hpa
    exact ⟨u, v, hpa.symm, huv⟩
  case add =>
    intro p q hp hq
    obtain ⟨x₁, y₁, t₁, z₁, rfl, hc₁⟩ := (validExt_iff h ha hd).1 hp
    obtain ⟨x₂, y₂, t₂, z₂, rfl, hc₂⟩ := (validExt_iff h ha hd).1 hq
    refine (validExt_iff h ha hd).2 ⟨_, _, _, _, ?_, hc₁.add h2 hns hc₂ rfl rfl rfl rfl⟩
    simp only [edOps, addE, ha, hd, h.mul, h.add, h.sub, EdExtended.mk.injEq]
    refine ⟨congrArg σ ?_, congrArg σ ?_, congrArg σ ?_, congrArg σ ?_⟩ <;> ring
  case dbl =>
    intro p hp
    obtain ⟨x, y, t, z, rfl, hc⟩ := (validExt_iff h ha hd).1 hp
    refine (validExt_iff h ha hd).2 ⟨_, _, _, _, ?_, hc.dbl h2 hns rfl rfl rfl rfl⟩
    simp only [edOps, dblE, ha, h.mul, h.add, h.sub, h.dbl, EdExtended.mk.injEq]
    refine ⟨congrArg σ ?_, congrArg σ ?_, congrArg σ ?_, congrArg σ ?_⟩ <;> ring
  case negE =>
    intro p hp
    obtain ⟨x, y, t, z, rfl, hc⟩ := (validExt_iff h ha hd).1 hp
    exact (validExt_iff h ha hd).2 ⟨-x, y, -t, z, by simp only [edOps, negEE, hneg], hc.neg⟩
  case negA =>
    rintro a a' ⟨u, v, rfl, hc⟩ haa
    simp only [edOps, negEA] at haa
    split at haa
    · cases haa
    · obtain rfl : (⟨σ (-u), σ v⟩ : EdAffine) = a' := by simpa [hneg] using haa
      exact ⟨-u, v, rfl, by linear_combination hc⟩

end

end Sys2Proof.Machine
end

section
/-!
On a conforming parameter set the three groups keep the points of their curves, and so does every step
(10_state.md R35, 44_curve_group_law.md R335).
-/

namespace Sys2Proof.Machine

open Config

/-! ### FQ2 -/

/-- FQ2 as a ring: the integers modulo P_FQ with a square root of BETA (42_extension_tower.md R241). -/
abbrev Fq2Ring (P : ParamStore) : Type :=
  QuadraticAlgebra (ZMod P.fq.p.toNat) (residue P.fq P.beta) 0

/-- The element of the ring an FQ2 element stands for. -/
def residue2 (P : ParamStore) (a : Fq2) : Fq2Ring P := ⟨residue P.fq a.c0, residue P.fq a.c1⟩

/-- The 3-multiplication formula is the product in the ring (42_extension_tower.md R243). -/
theorem residue2_mul2 {P : ParamStore} (hP : ParamLaws P) {a b : Fq2} (ha : canonical2 P a = true) :
    residue2 P (mul2 P a b) = residue2 P a * residue2 P b := by
  obtain ⟨h0, h1⟩ := canonical2_iff.1 ha
  have hsum := fadd_canonical hP.fq a.c0 a.c1
  ext
  · simp only [residue2, mul2, residue_fadd hP.fq, residue_montMul hP.fq _ h0, residue_montMul hP.fq _ h1,
      residue_montMul hP.fq _ hP.beta, QuadraticAlgebra.re_mul]
    ring
  · simp only [residue2, mul2, residue_fadd hP.fq, residue_fsub hP.fq, residue_montMul hP.fq _ h0,
      residue_montMul hP.fq _ h1, residue_montMul hP.fq _ hsum, QuadraticAlgebra.im_mul]
    ring

/-- The canonical elements of FQ2 with its functions are the ring (42_extension_tower.md R242, R243, R254,
R255). -/
theorem fq2Ops_reads {P : ParamStore} (hP : ParamLaws P) :
    (fq2Ops P).Reads (fun a => canonical2 P a = true) (residue2 P) where
  keeps := fq2Ops_keeps hP
  inj a b ha hb hab := by
    rw [canonical2_iff] at ha hb
    obtain ⟨h0, h1⟩ := QuadraticAlgebra.ext_iff.1 hab
    exact fq2_ext (residue_inj hP.fq ha.1 hb.1 h0) (residue_inj hP.fq ha.2 hb.2 h1)
  surj z := by
    obtain ⟨a, ha, hza⟩ := residue_surj hP.fq z.re
    obtain ⟨b, hb, hzb⟩ := residue_surj hP.fq z.im
    exact ⟨⟨a, b⟩, canonical2_iff.2 ⟨ha, hb⟩, QuadraticAlgebra.ext hza hzb⟩
  zero := QuadraticAlgebra.ext residue_zero residue_zero
  one := QuadraticAlgebra.ext (residue_one hP.fq) residue_zero
  add _ _ _ _ := QuadraticAlgebra.ext (residue_fadd hP.fq _ _) (residue_fadd hP.fq _ _)
  sub _ _ _ _ := QuadraticAlgebra.ext (residue_fsub hP.fq _ _) (residue_fsub hP.fq _ _)
  dbl _ _ := QuadraticAlgebra.ext (residue_fadd hP.fq _ _) (residue_fadd hP.fq _ _)
  neg a ha := by
    rw [canonical2_iff] at ha
    exact QuadraticAlgebra.ext (residue_fneg hP.fq ha.1) (residue_fneg hP.fq ha.2)
  mul a b ha _ := residue2_mul2 hP ha
  sqr a ha := residue2_mul2 hP ha
  eq_iff a b := by simp [fq2Ops]
  isZero_iff a := by simp [fq2Ops]
  isOne_iff a := by simp [fq2Ops]

/-- BETA is no square modulo P_FQ (00_scope.md R6). -/
theorem beta_not_square {P : ParamStore} (hP : ParamLaws P)
    (h : NonSquare (fqOps P) (fun a => canonical P.fq a = true) P.beta) (r : ZMod P.fq.p.toNat) :
    r * r ≠ residue P.fq P.beta := by
  obtain ⟨a, ha, rfl⟩ := residue_surj hP.fq r
  intro hr
  refine h a ha (residue_inj hP.fq (montMul_canonical hP.fq a ha) hP.beta ?_)
  rw [← hr]
  exact residue_montMul hP.fq a ha

/-- Every element of FQ2 but 0 has its inverse, through the norm (42_extension_tower.md R244). -/
theorem inv2_spec {P : ParamStore} (hP : ParamLaws P) (hp : P.fq.p.toNat.Prime)
    (hbeta : ∀ r : ZMod P.fq.p.toNat, r * r ≠ residue P.fq P.beta) {a : Fq2} (ha : canonical2 P a = true)
    (h0 : a ≠ zero2) :
    ∃ z, inv2 P a = some z ∧ canonical2 P z = true ∧ residue2 P a * residue2 P z = 1 := by
  have hfact : Fact P.fq.p.toNat.Prime := ⟨hp⟩
  obtain ⟨hc0, hc1⟩ := canonical2_iff.1 ha
  have hnorm : residue P.fq (norm2 P a) =
      residue P.fq a.c0 * residue P.fq a.c0 -
        residue P.fq P.beta * (residue P.fq a.c1 * residue P.fq a.c1) := by
    rw [norm2, residue_fsub hP.fq, fsqr, fsqr, residue_montMul hP.fq _ hc0,
      residue_montMul hP.fq _ hP.beta, residue_montMul hP.fq _ hc1]
  have hne : norm2 P a ≠ 0 := by
    intro hn
    rw [hn, residue_zero] at hnorm
    by_cases h1 : residue P.fq a.c1 = 0
    · have h2 : residue P.fq a.c0 = 0 := by
        refine mul_self_eq_zero.1 ?_
        rw [h1] at hnorm
        linear_combination -hnorm
      exact h0 (fq2_ext (residue_inj hP.fq hc0 (zero_canonical hP.fq) (h2.trans residue_zero.symm))
        (residue_inj hP.fq hc1 (zero_canonical hP.fq) (h1.trans residue_zero.symm)))
    · refine hbeta (residue P.fq a.c0 / residue P.fq a.c1) ?_
      rw [div_mul_div_comm, div_eq_iff (mul_ne_zero h1 h1)]
      linear_combination -hnorm
  have hnok : canonical P.fq (norm2 P a) = true := fsub_canonical hP.fq _ _
  obtain ⟨n, hn, -, hnn⟩ := finv_spec hP.fq hp hnok hne
  rw [hnorm] at hnn
  have hz : inv2 P a = some ⟨montMul P.fq a.c0 n, fneg P.fq (montMul P.fq a.c1 n)⟩ := by
    simp only [inv2, hn]
  refine ⟨_, hz, inv2_canonical hP ha hz, ?_⟩
  ext
  · simp only [residue2, residue_montMul hP.fq _ hc0, residue_fneg hP.fq (montMul_canonical hP.fq n hc1),
      residue_montMul hP.fq _ hc1, QuadraticAlgebra.re_mul, QuadraticAlgebra.re_one]
    linear_combination hnn
  · simp only [residue2, residue_montMul hP.fq _ hc0, residue_fneg hP.fq (montMul_canonical hP.fq n hc1),
      residue_montMul hP.fq _ hc1, QuadraticAlgebra.im_mul, QuadraticAlgebra.im_one]
    ring

/-! ### The groups of a conforming parameter set -/

/-- A Weierstrass group over a field that reads as a field keeps its points: the premises of R335 in the
model's own terms. -/
theorem weierstrass_keeps_of_reads {K L : Type} [Field L] [DecidableEq K] {F : FieldOps K} {ok : K → Bool}
    {φ : K → L} {b : K} (hF : F.Reads (fun a => ok a = true) φ) (h2 : (2 : L) ≠ 0) (hok : ok b = true)
    (hb : NonCube F (fun a => ok a = true) (F.neg b))
    (hinv : ∀ a, ok a = true → a ≠ F.zero → ∃ z, F.inv a = some z ∧ ok z = true ∧ φ a * φ z = 1) :
    (weierstrassOps F b (F.add (F.add b b) b)).Keeps
      (fun a => affineOk F ok a = true ∧ onCurveWA F b a = true) (ValidProj F ok b) := by
  obtain ⟨σ, hσ, h⟩ := hF.exists_encodes
  obtain ⟨β, rfl⟩ := (h.ok_iff b).1 hok
  rw [h.add, h.add]
  refine weierstrassOps_keeps_points h h2 (fun t ht => ?_) fun x hx => ?_
  · refine hb (σ t) ((h.ok_iff _).2 ⟨t, rfl⟩) ?_
    rw [h.mul, h.mul, h.neg, ← ht]
    ring_nf
  · have hne : σ x ≠ F.zero := fun hz => hx ((h.isZero_iff x).1 ((hF.isZero_iff _).2 hz))
    obtain ⟨z, hz, hokz, hxz⟩ := hinv (σ x) ((h.ok_iff _).2 ⟨x, rfl⟩) hne
    obtain ⟨y, rfl⟩ := (h.ok_iff z).1 hokz
    exact ⟨y, hz, by rwa [hσ, hσ] at hxz⟩

theorem two_ne_zero_of_odd {p : Nat} (h3 : 3 ≤ p) : (2 : ZMod p) ≠ 0 := by
  intro h
  have h' : ((2 : Nat) : ZMod p) = 0 := by exact_mod_cast h
  rw [ZMod.natCast_eq_zero_iff] at h'
  exact absurd (Nat.le_of_dvd (by decide) h') (by omega)

section

variable {P : ParamStore} (hc : Conforming P)

include hc

theorem g1Ops_keeps_points : (g1Ops P).Keeps
    (fun a => affineOk (fqOps P) (canonical P.fq) a = true ∧ onCurveWA (fqOps P) P.bG1 a = true)
    (ValidProj (fqOps P) (canonical P.fq) P.bG1) := by
  have hP := paramLaws_of_ok hc.ok
  have hprime : Fact P.fq.p.toNat.Prime := ⟨hc.primeFq⟩
  have h := weierstrass_keeps_of_reads (baseOps_reads hP.fq) (two_ne_zero_of_odd hP.fq.three_le) hP.bG1 hc.g1
    fun a => finv_spec hP.fq hc.primeFq
  rw [g1Ops, hP.b3G1]
  exact h

theorem g2Ops_keeps_points : (g2Ops P).Keeps
    (fun a => affineOk (fq2Ops P) (canonical2 P) a = true ∧ onCurveWA (fq2Ops P) P.bG2 a = true)
    (ValidProj (fq2Ops P) (canonical2 P) P.bG2) := by
  have hP := paramLaws_of_ok hc.ok
  have hprime : Fact P.fq.p.toNat.Prime := ⟨hc.primeFq⟩
  have hbeta := beta_not_square hP hc.residues.beta
  have hfield : Fact (∀ r : ZMod P.fq.p.toNat, r ^ 2 ≠ residue P.fq P.beta + 0 * r) :=
    ⟨fun r hr => hbeta r (by linear_combination hr)⟩
  have h2 : (2 : Fq2Ring P) ≠ 0 := fun h =>
    two_ne_zero_of_odd hP.fq.three_le (congrArg QuadraticAlgebra.re h)
  have h := weierstrass_keeps_of_reads (fq2Ops_reads hP) h2 hP.bG2 hc.g2
    fun a => inv2_spec hP hc.primeFq hbeta
  rw [g2Ops, hP.b3G2]
  exact h

theorem edOps_keeps_of_conforming :
    (edOps P).Keeps (fun a => edAffineOk P a = true ∧ onCurveEA P a = true) (ValidExt P) := by
  have hP := paramLaws_of_ok hc.ok
  have hprime : Fact P.fr.p.toNat.Prime := ⟨hc.primeFr⟩
  obtain ⟨σ, hσ, h⟩ := (baseOps_reads hP.fr).exists_encodes
  obtain ⟨r, hr, ha⟩ := hc.edwards.aSquare
  obtain ⟨c, rfl⟩ := (h.ok_iff r).1 hr
  obtain ⟨d, hd⟩ := (h.ok_iff P.edD).1 hP.edD
  refine edOps_keeps_points h (ha.symm.trans (h.mul c c)) hd.symm (two_ne_zero_of_odd hP.fr.three_le)
    (fun x hx => ?_) fun x hx => ?_
  · refine hc.edwards.dNonSquare (σ x) ((h.ok_iff _).2 ⟨x, rfl⟩) ?_
    rw [← hd, ← hx]
    exact h.mul x x
  · have hne : σ x ≠ 0 := fun hz => hx ((h.isZero_iff x).1 (by rw [hz]; rfl))
    obtain ⟨z, hz, hokz, hxz⟩ := finv_spec hP.fr hc.primeFr ((h.ok_iff _).2 ⟨x, rfl⟩) hne
    obtain ⟨y, rfl⟩ := (h.ok_iff z).1 hokz
    exact ⟨y, hz, by rwa [hσ, hσ] at hxz⟩

end

/-! ### Registers -/

/-- The register invariants of 10_state.md R35 on one value: canonical, and on its curve if it is a
point. -/
def ValueValid (P : ParamStore) (x : Value) : Prop :=
  valueOk P x = true ∧ pointOnCurve P x ≠ .ok false

/-- Values of other than point types are on no curve test. -/
theorem pointOnCurve_ne_of_not_point {P : ParamStore} {x : Value} (h : tagOf x ∉ pointTypes) :
    pointOnCurve P x ≠ .ok false := by
  cases x <;> simp [tagOf, pointTypes] at h <;> simp [pointOnCurve]

theorem readField_tag {R : CoeffReader} {t : TCode} {off : Nat} {x : Value}
    (h : readField R t off = some x) : tagOf x ∉ pointTypes := by
  unfold readField at h
  split at h
  case h_6 => cases h
  all_goals obtain ⟨a, -, rfl⟩ := Option.map_eq_some_iff.1 h; simp [tagOf, pointTypes]

/-- Every point LD loads is on its curve (40_data_movement.md R162). -/
theorem decodeCanonical_onCurve {s : State} {t : TCode} {off : Nat} {x : Value}
    (h : decodeCanonical s t off = some x) : pointOnCurve s.params x ≠ .ok false := by
  unfold decodeCanonical at h
  dsimp only at h
  split at h
  next => obtain ⟨b, -, rfl⟩ := Option.map_eq_some_iff.1 h; simp [pointOnCurve]
  next =>
    obtain ⟨a, ha, rfl⟩ := Option.map_eq_some_iff.1 h
    obtain rfl | ⟨-, -, -, hcurve⟩ := readAffine_cases ha
    · simp [pointOnCurve, g1Ops, weierstrassOps, onCurveWA]
    · simp [pointOnCurve, hcurve]
  next =>
    obtain ⟨p, hp, rfl⟩ := Option.map_eq_some_iff.1 h
    simp [pointOnCurve, (readProj_spec hp).2.2.2]
  next =>
    obtain ⟨a, ha, rfl⟩ := Option.map_eq_some_iff.1 h
    obtain rfl | ⟨-, -, -, hcurve⟩ := readAffine_cases ha
    · simp [pointOnCurve, g2Ops, weierstrassOps, onCurveWA]
    · simp [pointOnCurve, hcurve]
  next =>
    obtain ⟨p, hp, rfl⟩ := Option.map_eq_some_iff.1 h
    simp [pointOnCurve, (readProj_spec hp).2.2.2]
  next =>
    obtain ⟨a, ha, rfl⟩ := Option.map_eq_some_iff.1 h
    simp [pointOnCurve, edOps, (readEdAffine_spec ha).2.2]
  next =>
    obtain ⟨p, hp, rfl⟩ := Option.map_eq_some_iff.1 h
    simp [pointOnCurve, edOps, (readEdExtended_spec hp).2.2.2.2]
  next => exact pointOnCurve_ne_of_not_point (readField_tag h)

/-- On a conforming parameter set the register invariants are kept by every function a command applies
(10_state.md R35). -/
theorem valueValid_kept {s : State} (hc : Conforming s.params) : ValuesKept s (ValueValid s.params) := by
  have hk := valueOk_kept hc.ok
  have special : ∀ {x y : Value}, ValueValid s.params x → (valueOk s.params x = true →
      valueOk s.params y = true) → tagOf y ∉ pointTypes → ValueValid s.params y :=
    fun hx hy ht => ⟨hy hx.1, pointOnCurve_ne_of_not_point ht⟩
  refine
    { bool := fun b => ⟨rfl, by simp [pointOnCurve]⟩
      fr := by simpa [ValueValid, pointOnCurve] using hk.fr
      fq := by simpa [ValueValid, pointOnCurve] using hk.fq
      fq2 := by simpa [ValueValid, pointOnCurve] using hk.fq2
      fq6 := by simpa [ValueValid, pointOnCurve] using hk.fq6
      fq12 := by simpa [ValueValid, pointOnCurve] using hk.fq12
      g1 := ?_
      g2 := ?_
      ed := ?_
      reduce := fun x y hx hy => special hx (fun h => hk.reduce x y h hy) ?_
      mulnr := fun x y hx hy => special hx (fun h => hk.mulnr x y h hy) ?_
      conj := fun x y hx hy => special hx (fun h => hk.conj x y h hy) ?_
      frob := fun i x y hx hy => special hx (fun h => hk.frob i x y h hy) ?_
      load := fun t off x hx => ⟨hk.load t off x hx, decodeCanonical_onCurve hx⟩
      rawLoad := fun t off x hx =>
        ⟨hk.rawLoad t off x hx, pointOnCurve_ne_of_not_point (readField_tag hx)⟩ }
  · simp only [ValueValid, pointOnCurve, ne_eq, Except.ok.injEq, Bool.not_eq_false]
    exact g1Ops_keeps_points hc
  · simp only [ValueValid, pointOnCurve, ne_eq, Except.ok.injEq, Bool.not_eq_false]
    exact g2Ops_keeps_points hc
  · simp only [ValueValid, pointOnCurve, ne_eq, Except.ok.injEq, Bool.not_eq_false]
    exact edOps_keeps_of_conforming hc
  · unfold reduceValue at hy; split at hy <;> cases hy <;> simp [tagOf, pointTypes]
  · unfold mulNonResidue at hy; split at hy <;> cases hy <;> simp [tagOf, pointTypes]
  · unfold conjugate at hy; split at hy <;> cases hy <;> simp [tagOf, pointTypes]
  · unfold frobenius at hy; split at hy <;> cases hy <;> simp [tagOf, pointTypes]

/-- Settles O57: a step writes a register only by a reset or by a command's effect, and every value a
command writes is valid by `valueValid_kept`. -/
theorem stepKeepsPointsOnTheirCurves : Obligations.StepKeepsPointsOnTheirCurves := by
  intro s t hc hs hpoints ht r
  have hvalid : ∀ r, ValueValid s.params (s.nextTurn.reg r) := fun r => ⟨hs.values r, hpoints r⟩
  rw [step_params ht]
  exact (step_regs_kept (valueValid_kept (s := s.nextTurn) hc) ⟨rfl, by simp [pointOnCurve]⟩ hvalid ht r).2

end Sys2Proof.Machine
end

section
/-!
The host port at IOBUF: illegal accesses and the interlock (20_memory.md R82, R83, R87).
-/

namespace Sys2Proof.Machine

/-- Which accesses are legal, in numbers (20_memory.md R82). -/
theorem legalAccess_iff {a : Access} :
    legalAccess a = true ↔ a.size = .b8 ∧ a.addr.toNat % 8 = 0 ∧
      (a.addr.toNat < 0x0040 ∨ (0x2000 ≤ a.addr.toNat ∧ a.addr.toNat < 0x4000)) := by
  simp only [legalAccess, inRegisterBlock, inIobuf, Bool.and_eq_true, Bool.or_eq_true, decide_eq_true_eq,
    and_assoc]

/-- An illegal access sets BUSERR and is answered (ERROR, 0) (20_memory.md R83). -/
theorem step_of_illegal_access {s : State} {a : Access} {rest : List Input}
    (h : s.inputs = .host a :: rest) (hl : legalAccess a ≠ true) :
    step s = .next ((State.setBuserr { s with inputs := rest }).answer .error 0) := by
  rw [step_of_host_turn h, hostAccess, if_neg hl]

/-- A legal access at 0x2000 or above reaches IOBUF (20_memory.md R82, R85). -/
theorem step_of_iobuf_access {s : State} {a : Access} {rest : List Input}
    (h : s.inputs = .host a :: rest) (hl : legalAccess a = true) (hlo : 0x2000 ≤ a.addr.toNat) :
    step s = .next (iobufAccess a { s with inputs := rest }) := by
  have hr : inRegisterBlock a.addr ≠ true := by
    simp only [inRegisterBlock, ne_eq, decide_eq_true_eq]
    omega
  rw [step_of_host_turn h, hostAccess, if_pos hl, if_neg hr]

/-! ### An access to IOBUF by the interlock and its kind -/

theorem iobufAccess_of_busy {s : State} {a : Access} (hb : s.busy = true) :
    iobufAccess a s = s.setHostconf.answer .error 0 := by
  simp [iobufAccess, hb]

theorem iobufAccess_read {s : State} {a : Access} (hb : s.busy = false) (hk : a.kind = .read) :
    iobufAccess a s = s.answer .okay (BitVec.ofNat 64 (s.memRead (iobufOffset a.addr) 8)) := by
  simp [iobufAccess, hb, hk]

theorem iobufAccess_write {s : State} {a : Access} (hb : s.busy = false) (hk : a.kind = .write) :
    iobufAccess a s = (s.memWrite (iobufOffset a.addr) 8 a.wdata.toNat).answer .okay 0 := by
  simp only [iobufAccess, hb, hk, Bool.false_eq_true, if_false]

/-- The word of IOBUF that holds an aligned byte offset starts there (20_memory.md R86). -/
theorem State.iobufWord_of_aligned (s : State) {n : Nat} (h : n % 8 = 0) :
    s.iobufWord (n / 8) = s.memRead n 8 := by
  rw [State.iobufWord, Nat.mul_div_cancel' (Nat.dvd_of_mod_eq_zero h)]

/-- Settles O47: each disjunct contradicts `legalAccess_iff`. -/
theorem illegalAccessOnlySetsBuserr : Obligations.IllegalAccessOnlySetsBuserr := by
  intro s a rest h hbad
  refine step_of_illegal_access h fun hl => ?_
  obtain ⟨hsize, halign, hrange⟩ := legalAccess_iff.1 hl
  obtain hs | ha | hr := hbad
  · exact hs hsize
  · exact ha halign
  · omega

/-- Settles O48: the access reaches `iobufAccess`; a word written is read back by
`State.memRead_memWrite`, and `State.iobufByte_memWrite` leaves the other bytes alone. -/
theorem iobufIsInterlockedWithTheEngine : Obligations.IobufIsInterlockedWithTheEngine := by
  intro s a rest h hsize halign hlo hhi
  have hword : (a.addr.toNat - 0x2000) % 8 = 0 := by omega
  rw [step_of_iobuf_access h (legalAccess_iff.2 ⟨hsize, halign, .inr ⟨hlo, hhi⟩⟩) hlo]
  refine ⟨fun hb => ?_, fun hb hk => ?_, fun hb hk => ?_⟩
  · rw [iobufAccess_of_busy (s := { s with inputs := rest }) hb]
    rfl
  · rw [iobufAccess_read (s := { s with inputs := rest }) hb hk]
    refine ⟨_, ?_, rfl⟩
    rw [State.iobufWord_of_aligned s hword, BitVec.toNat_ofNat]
    exact Nat.mod_eq_of_lt (State.memRead_lt s _ 8)
  · rw [iobufAccess_write (s := { s with inputs := rest }) hb hk]
    refine ⟨_, rfl, ?_, fun x hx => ?_, rfl⟩
    · rw [State.iobufWord_of_aligned _ hword]
      exact (State.memRead_memWrite s _ 8 _).trans (Nat.mod_eq_of_lt a.wdata.isLt)
    · exact (State.iobufByte_memWrite s _ 8 _ x).trans (if_neg (by unfold iobufOffset; omega))

end Sys2Proof.Machine
end

section
/-!
What a command's result depends on: when a command meets no fault it commits an effect, that effect is a
function of its sources, the IOBUF bytes it reads and the parameters, and so is what the effect writes
(20_memory.md R93, 60_exceptions.md R425).
-/

namespace Sys2Proof.Machine

open Config

/-! ### The checks as one condition -/

theorem firstSourceFault_eq_none {s : State} {sources : List (Reg × List TCode)} :
    firstSourceFault s sources = none ↔ ∀ p ∈ sources, Operand s p.1 p.2 := by
  induction sources with
  | nil => simp [firstSourceFault]
  | cons p rest ih =>
    obtain ⟨r, required⟩ := p
    by_cases he : tagOf (s.reg r) = .empty
    · simp [firstSourceFault, Operand, he]
    · by_cases hm : tagOf (s.reg r) ∈ required <;> simp [firstSourceFault, Operand, he, hm, ih]

theorem faultOf_eq_none {s : State} {i : Instr} :
    faultOf s i = none ↔ i.typeOk = true ∧ i.immOk = true ∧ i.rangeOk = true ∧
      ∀ p ∈ sourcesOf i, Operand s p.1 p.2 := by
  rw [← firstSourceFault_eq_none, faultOf]
  cases i.typeOk <;> cases i.immOk <;> cases i.rangeOk <;> simp

/-! ### The per-type functions of the remaining commands on admitted tags -/

theorem boolOperand_ok {x : Value} (h : tagOf x = .bool) : ∃ b, boolOperand x = .ok b := by
  obtain ⟨b, rfl⟩ := tagOf_eq_bool.1 h
  exact ⟨b, rfl⟩

theorem scalarOperand_ok (P : ParamStore) {x : Value} (h : tagOf x = .fr) :
    ∃ k, scalarOperand P x = .ok k := by
  obtain ⟨m, rfl⟩ := tagOf_eq_fr.1 h
  exact ⟨_, rfl⟩

theorem reduceValue_ok (P : ParamStore) {x : Value} (h : tagOf x ∈ [TCode.fr, .fq]) :
    ∃ y, reduceValue P x = .ok y := by
  cases x <;> simp [tagOf] at h <;> exact ⟨_, rfl⟩

theorem mulNonResidue_ok (P : ParamStore) {x : Value} (h : tagOf x ∈ [TCode.fq2, .fq6]) :
    ∃ y, mulNonResidue P x = .ok y := by
  cases x <;> simp [tagOf] at h <;> exact ⟨_, rfl⟩

theorem conjugate_ok (P : ParamStore) {x : Value} (h : tagOf x ∈ [TCode.fq2, .fq12]) :
    ∃ y, conjugate P x = .ok y := by
  cases x <;> simp [tagOf] at h <;> exact ⟨_, rfl⟩

theorem frobenius_ok (P : ParamStore) (i : Nat) {x : Value} (h : tagOf x ∈ [TCode.fq2, .fq6, .fq12]) :
    ∃ y, frobenius P i x = .ok y := by
  cases x <;> simp [tagOf] at h <;> exact ⟨_, rfl⟩

theorem Operand.tag_mem {s : State} {r : Reg} {t : TCode} {ts : List TCode} (h : Operand s r [t])
    (ht : t ∈ ts) : tagOf (s.reg r) ∈ ts := by
  rwa [h.tag_eq]

theorem Operand.tag_pair {s : State} {r : Reg} {t u : TCode} (h : Operand s r [t, u]) :
    tagOf (s.reg r) = t ∨ tagOf (s.reg r) = u := by
  simpa using h.2

theorem Operand.tags_eq {s : State} {a b : Reg} {t : TCode} (ha : Operand s a [t]) (hb : Operand s b [t]) :
    tagOf (s.reg b) = tagOf (s.reg a) :=
  hb.tag_eq.trans ha.tag_eq.symm

/-! ### A command without a fault commits -/

/-- The command that meets no fault commits an effect (60_exceptions.md R425, 70_reset_and_hazards.md
R481): its checks admit only operands its function is defined on. -/
theorem commits_of_no_fault {s : State} {i : Instr} (h : faultOf s i = none) : ∃ e, Commits s i e := by
  obtain ⟨htype, himm, hrange, hsrc⟩ := faultOf_eq_none.1 h
  cases i
  case nop => exact ⟨.nothing, rfl⟩
  all_goals
    replace htype := of_decide_eq_true htype
    simp only [Instr.typeField, Instr.admittedTypes] at htype
    simp only [sourcesOf, List.forall_mem_cons, List.not_mem_nil, false_implies, implies_true, and_true]
      at hsrc
  case ld | ldm => exact ⟨_, htype, hrange, rfl⟩
  case st | stm => exact ⟨_, htype, hrange, hsrc, rfl⟩
  case mov => exact ⟨_, htype, hsrc, rfl⟩
  case const k =>
    obtain ⟨x, hx, -⟩ := constValue_ok s.params k htype
    exact ⟨_, htype, himm, x, hx, rfl⟩
  case sel =>
    obtain ⟨ha, hb, hc⟩ := hsrc
    obtain ⟨z, hz⟩ := boolOperand_ok hc.tag_eq
    exact ⟨_, htype, ha, hb, hc, z, hz, rfl⟩
  case add | sub | mul =>
    obtain ⟨ha, hb⟩ := hsrc
    obtain ⟨x, hx, -⟩ := fieldBinary_ok s.params _ (ha.tag_mem htype) (ha.tags_eq hb)
    exact ⟨_, htype, ha, hb, x, hx, rfl⟩
  case dbl | neg | sqr =>
    obtain ⟨x, hx, -⟩ := fieldUnary_ok s.params _ (hsrc.tag_mem htype)
    exact ⟨_, htype, hsrc, x, hx, rfl⟩
  case inv =>
    obtain ⟨o, ho, -⟩ := fieldInverse_ok s.params (hsrc.tag_mem htype)
    exact ⟨_, htype, hsrc, o, ho, rfl⟩
  case mred =>
    obtain ⟨x, hx⟩ := reduceValue_ok s.params (hsrc.tag_mem htype)
    exact ⟨_, htype, hsrc, x, hx, rfl⟩
  case eq =>
    obtain ⟨ha, hb⟩ := hsrc
    obtain ⟨z, hz⟩ := fieldCompare_ok s.params _ (ha.tag_mem htype) (ha.tags_eq hb)
    exact ⟨_, htype, ha, hb, z, hz, rfl⟩
  case iszero | isone =>
    obtain ⟨z, hz⟩ := fieldTest_ok s.params _ (hsrc.tag_mem htype)
    exact ⟨_, htype, hsrc, z, hz, rfl⟩
  case mulnr =>
    obtain ⟨x, hx⟩ := mulNonResidue_ok s.params (hsrc.tag_mem htype)
    exact ⟨_, htype, hsrc, x, hx, rfl⟩
  case conj =>
    obtain ⟨x, hx⟩ := conjugate_ok s.params (hsrc.tag_mem htype)
    exact ⟨_, htype, hsrc, x, hx, rfl⟩
  case frob i =>
    obtain ⟨x, hx⟩ := frobenius_ok s.params i.toNat (hsrc.tag_mem htype)
    exact ⟨_, htype, himm, hsrc, x, hx, rfl⟩
  case padd =>
    obtain ⟨ha, hb⟩ := hsrc
    obtain ⟨x, hx, -⟩ := pointBinary_ok s.params _ htype ha.tag_pair hb.tag_pair
    exact ⟨_, htype, ha, hb, x, hx, rfl⟩
  case pdbl =>
    obtain ⟨x, hx, -⟩ := pointUnary_ok s.params _ htype hsrc.tag_pair
    exact ⟨_, htype, hsrc, x, hx, rfl⟩
  case pneg =>
    obtain ⟨o, ho, -⟩ := pointNegate_ok s.params (hsrc.tag_mem htype)
    exact ⟨_, htype, hsrc, o, ho, rfl⟩
  case psmul =>
    obtain ⟨ha, hb⟩ := hsrc
    obtain ⟨k, hk⟩ := scalarOperand_ok s.params hb.tag_eq
    obtain ⟨x, hx, -⟩ := pointUnary_ok s.params (fun _ _ G p => smul G p k) htype ha.tag_pair
    exact ⟨_, htype, ha, hb, k, hk, x, hx, rfl⟩
  case toproj =>
    obtain ⟨x, hx, -⟩ := pointToProj_ok s.params htype hsrc.tag_eq
    exact ⟨_, htype, hsrc, x, hx, rfl⟩
  case toaff =>
    obtain ⟨o, ho, -⟩ := pointToAff_ok s.params htype hsrc.tag_eq
    exact ⟨_, htype, hsrc, o, ho, rfl⟩
  case peq =>
    obtain ⟨ha, hb⟩ := hsrc
    obtain ⟨z, hz⟩ := pointEqual_ok s.params (ha.tag_mem htype) (ha.tags_eq hb)
    exact ⟨_, htype, ha, hb, z, hz, rfl⟩
  case isid =>
    obtain ⟨z, hz⟩ := pointIsId_ok s.params (hsrc.tag_mem htype)
    exact ⟨_, htype, hsrc, z, hz, rfl⟩
  case oncurve =>
    obtain ⟨z, hz⟩ := pointOnCurve_ok s.params (hsrc.tag_mem htype)
    exact ⟨_, htype, hsrc, z, hz, rfl⟩

/-- A command that can commit an effect does so and retires (70_reset_and_hazards.md R481). -/
theorem Commits.exec_eq {s : State} {i : Instr} {e : Effect} (h : Commits s i e) :
    exec i s = .next (retire (applyEffect e s)) := by
  obtain ⟨r, hr, hc⟩ := exec_eq_complete i s
  rw [hr, (hc e).2 h, complete_ok]

/-! ### Loads depend on the bytes they read -/

/-- The bytes of words `lo .. hi - 1` of IOBUF read the same in both states. -/
def SameWords (s s' : State) (lo hi : Nat) : Prop :=
  ∀ a, 8 * lo ≤ a → a < 8 * hi → s.iobufByte a = s'.iobufByte a

/-- A read by `f` and by `f'` of `n` words from words `lo .. hi - 1` gives the same. -/
def SameReads {α : Type} (f f' : Nat → α) (n lo hi : Nat) : Prop :=
  ∀ off, lo ≤ off → off + n ≤ hi → f off = f' off

section

variable {s s' : State} {lo hi : Nat}

theorem SameWords.sameReads_memRead (h : SameWords s s' lo hi) (n : Nat) :
    SameReads (fun off => s.memRead (8 * off) (8 * n)) (fun off => s'.memRead (8 * off) (8 * n)) n lo hi :=
  fun _ hlo hhi => State.memRead_congr fun x h1 h2 => h x (by omega) (by omega)

theorem SameWords.sameReads_iobufWord (h : SameWords s s' lo hi) :
    SameReads s.iobufWord s'.iobufWord 1 lo hi :=
  h.sameReads_memRead 1

theorem SameWords.sameReads_decCanonical (h : SameWords s s' lo hi) {w : Nat} (F : BaseField w) :
    SameReads (decCanonical s F) (decCanonical s' F) (limbCount w) lo hi := fun off hlo hhi => by
  have hlimbs : readLimbs s F off = readLimbs s' F off := h.sameReads_memRead _ off hlo hhi
  simp only [decCanonical, hlimbs]

theorem SameWords.sameReads_decRaw (h : SameWords s s' lo hi) {w : Nat} (F : BaseField w) :
    SameReads (decRaw s F) (decRaw s' F) (limbCount w) lo hi := fun off hlo hhi => by
  have hlimbs : readLimbs s F off = readLimbs s' F off := h.sameReads_memRead _ off hlo hhi
  simp only [decRaw, hlimbs]

/-- Two readers of coefficients that read the same from words `lo .. hi - 1`. -/
structure CoeffReader.Same (R R' : CoeffReader) (lo hi : Nat) : Prop where
  fr : SameReads R.fr R'.fr 4 lo hi
  fq : SameReads R.fq R'.fq 6 lo hi

theorem SameWords.same_canonicalReader (h : SameWords s s' lo hi) (hP : s.params = s'.params) :
    (canonicalReader s).Same (canonicalReader s') lo hi := by
  simp only [canonicalReader, hP]
  exact ⟨h.sameReads_decCanonical _, h.sameReads_decCanonical _⟩

theorem SameWords.same_rawReader (h : SameWords s s' lo hi) (hP : s.params = s'.params) :
    (rawReader s).Same (rawReader s') lo hi := by
  simp only [rawReader, hP]
  exact ⟨h.sameReads_decRaw _, h.sameReads_decRaw _⟩

variable {R R' : CoeffReader}

theorem CoeffReader.Same.sameReads_readFq2 (h : R.Same R' lo hi) :
    SameReads (readFq2 R) (readFq2 R') 12 lo hi := fun off hlo hhi => by
  simp only [readFq2, h.fq off hlo (by omega), h.fq (off + 6) (by omega) (by omega)]

theorem CoeffReader.Same.sameReads_readFq6 (h : R.Same R' lo hi) :
    SameReads (readFq6 R) (readFq6 R') 36 lo hi := fun off hlo hhi => by
  simp only [readFq6, h.sameReads_readFq2 off hlo (by omega),
    h.sameReads_readFq2 (off + 12) (by omega) (by omega),
    h.sameReads_readFq2 (off + 24) (by omega) (by omega)]

theorem CoeffReader.Same.sameReads_readFq12 (h : R.Same R' lo hi) :
    SameReads (readFq12 R) (readFq12 R') 72 lo hi := fun off hlo hhi => by
  simp only [readFq12, h.sameReads_readFq6 off hlo (by omega),
    h.sameReads_readFq6 (off + 36) (by omega) (by omega)]

theorem CoeffReader.Same.sameReads_readField (h : R.Same R' lo hi) (t : TCode) :
    SameReads (readField R t) (readField R' t) (wordsOf t) lo hi := fun off hlo hhi => by
  cases t with
  | fr => exact congrArg (Option.map Value.fr) (h.fr off hlo hhi)
  | fq => exact congrArg (Option.map Value.fq) (h.fq off hlo hhi)
  | fq2 => exact congrArg (Option.map Value.fq2) (h.sameReads_readFq2 off hlo hhi)
  | fq6 => exact congrArg (Option.map Value.fq6) (h.sameReads_readFq6 off hlo hhi)
  | fq12 => exact congrArg (Option.map Value.fq12) (h.sameReads_readFq12 off hlo hhi)
  | _ => rfl

theorem CoeffReader.Same.sameReads_readEdAffine (h : R.Same R' lo hi) (P : ParamStore) :
    SameReads (readEdAffine P R) (readEdAffine P R') 8 lo hi := fun off hlo hhi => by
  simp only [readEdAffine, h.fr off hlo (by omega), h.fr (off + 4) (by omega) (by omega)]

theorem CoeffReader.Same.sameReads_readEdExtended (h : R.Same R' lo hi) (P : ParamStore) :
    SameReads (readEdExtended P R) (readEdExtended P R') 16 lo hi := fun off hlo hhi => by
  simp only [readEdExtended, h.fr off hlo (by omega), h.fr (off + 4) (by omega) (by omega),
    h.fr (off + 8) (by omega) (by omega), h.fr (off + 12) (by omega) (by omega)]

theorem sameReads_readProj {K : Type} {coord coord' : Nat → Option K} {n : Nat}
    (h : SameReads coord coord' n lo hi) (G : GroupOps (AffinePoint K) (ProjPoint K)) :
    SameReads (readProj G coord n) (readProj G coord' n) (3 * n) lo hi := fun off hlo hhi => by
  simp only [readProj, h off hlo (by omega), h (off + n) (by omega) (by omega),
    h (off + 2 * n) (by omega) (by omega)]

theorem sameReads_readAffine {K : Type} {coord coord' : Nat → Option K} {n : Nat}
    (h : SameReads coord coord' n lo hi) (hw : SameWords s s' lo hi)
    (G : GroupOps (AffinePoint K) (ProjPoint K)) :
    SameReads (readAffine s G coord n) (readAffine s' G coord' n) (2 * n + 1) lo hi :=
  fun off hlo hhi => by
    simp only [readAffine, hw.sameReads_iobufWord (off + 2 * n) (by omega) (by omega), h off hlo (by omega),
      h (off + n) (by omega) (by omega)]

theorem SameWords.sameReads_readBool (h : SameWords s s' lo hi) :
    SameReads (readBool s) (readBool s') 1 lo hi := fun off hlo hhi => by
  simp only [readBool, h.sameReads_iobufWord off hlo hhi]

/-- A canonical decode depends on the words of the value and the parameters (40_data_movement.md R162). -/
theorem SameWords.sameReads_decodeCanonical (h : SameWords s s' lo hi) (hP : s.params = s'.params)
    (t : TCode) : SameReads (decodeCanonical s t) (decodeCanonical s' t) (wordsOf t) lo hi :=
  fun off hlo hhi => by
  have hR := h.same_canonicalReader hP
  unfold decodeCanonical
  rw [hP]
  cases t with
  | bool => exact congrArg (Option.map Value.bool) (h.sameReads_readBool off hlo hhi)
  | g1a => exact congrArg (Option.map Value.g1a) (sameReads_readAffine hR.fq h _ off hlo hhi)
  | g1p => exact congrArg (Option.map Value.g1p) (sameReads_readProj hR.fq _ off hlo hhi)
  | g2a => exact congrArg (Option.map Value.g2a) (sameReads_readAffine hR.sameReads_readFq2 h _ off hlo hhi)
  | g2p => exact congrArg (Option.map Value.g2p) (sameReads_readProj hR.sameReads_readFq2 _ off hlo hhi)
  | eda => exact congrArg (Option.map Value.eda) (hR.sameReads_readEdAffine _ off hlo hhi)
  | ede => exact congrArg (Option.map Value.ede) (hR.sameReads_readEdExtended _ off hlo hhi)
  | _ => exact hR.sameReads_readField _ off hlo hhi

end

/-! ### The effect depends on the sources, the bytes read and the parameters -/

/-- The two states agree on what the command `i` reads: the parameters, its sources and its IOBUF bytes
(20_memory.md R90, R93). -/
structure SameInputs (i : Instr) (s s' : State) : Prop where
  params : s.params = s'.params
  sources : ∀ p ∈ sourcesOf i, s.reg p.1 = s'.reg p.1
  bytes : ∀ a, readsByte i a → s.iobufByte a = s'.iobufByte a

theorem firstSourceFault_congr {s s' : State} {sources : List (Reg × List TCode)}
    (h : ∀ p ∈ sources, s.reg p.1 = s'.reg p.1) :
    firstSourceFault s sources = firstSourceFault s' sources := by
  induction sources with
  | nil => rfl
  | cons p rest ih =>
    obtain ⟨r, required⟩ := p
    obtain ⟨hr, hrest⟩ := List.forall_mem_cons.1 h
    simp only [firstSourceFault, show s.reg r = s'.reg r from hr, ih hrest]

theorem SameInputs.faultOf_eq {i : Instr} {s s' : State} (h : SameInputs i s s') :
    faultOf s i = faultOf s' i := by
  simp only [faultOf, firstSourceFault_congr h.sources]

/-- A command commits the same effect on both states: `Commits` mentions a state only by what the command
reads. -/
theorem SameInputs.commits {i : Instr} {s s' : State} {e : Effect} (h : SameInputs i s s')
    (hc : Commits s i e) : Commits s' i e := by
  obtain ⟨hP, hsrc, hbytes⟩ := h
  cases i with
  | ld t d off =>
    have hwords : SameWords s s' off.toNat (off.toNat + wordsOf t) :=
      fun a hlo hhi => hbytes a ⟨hlo, hhi⟩
    have hload := hwords.sameReads_decodeCanonical hP t off.toNat le_rfl le_rfl
    simpa only [Commits, hload] using hc
  | ldm t d off =>
    have hwords : SameWords s s' off.toNat (off.toNat + wordsOf t) :=
      fun a hlo hhi => hbytes a ⟨hlo, hhi⟩
    have hload := (hwords.same_rawReader hP).sameReads_readField t off.toNat le_rfl le_rfl
    simpa only [Commits, decodeRaw, hload] using hc
  | _ =>
    simp only [sourcesOf, List.forall_mem_cons, List.not_mem_nil, false_implies, implies_true, and_true]
      at hsrc
    simpa only [Commits, Operand, hP, hsrc] using hc

/-! ### What an effect writes -/

/-- The register an effect writes. -/
def Effect.dest : Effect → Option Reg
  | .nothing | .store .. => none
  | .put d _ | .noneResult d | .decodeFailure d => some d

/-- The effect sets STATUS.NONE (60_exceptions.md R432). -/
def Effect.setsNone : Effect → Bool
  | .noneResult _ => true
  | _ => false

/-- The effect sets STATUS.DECFAIL (60_exceptions.md R431). -/
def Effect.setsDecfail : Effect → Bool
  | .decodeFailure _ => true
  | _ => false

theorem Effect.dest_putOrNone (d : Reg) (o : Option Value) : (putOrNone d o).dest = some d := by
  cases o <;> rfl

theorem Effect.dest_putOrDecfail (d : Reg) (o : Option Value) : (putOrDecfail d o).dest = some d := by
  cases o <;> rfl

/-- A command's effect writes the command's destination (30_encoding.md R128). -/
theorem Commits.dest_eq {s : State} {i : Instr} {e : Effect} (h : Commits s i e) : e.dest = destOf i := by
  cases i with
  | nop => cases h; rfl
  | ld | ldm =>
    obtain ⟨-, -, rfl⟩ := h
    exact Effect.dest_putOrDecfail _ _
  | st | stm => obtain ⟨-, -, -, rfl⟩ := h; rfl
  | mov => obtain ⟨-, -, rfl⟩ := h; rfl
  | sel => obtain ⟨-, -, -, -, z, -, rfl⟩ := h; rfl
  | psmul => obtain ⟨-, -, -, k, -, x, -, rfl⟩ := h; rfl
  | inv | pneg | toaff =>
    obtain ⟨-, -, o, -, rfl⟩ := h
    exact Effect.dest_putOrNone _ _
  | add | sub | mul | eq | frob | padd | peq => obtain ⟨-, -, -, x, -, rfl⟩ := h; rfl
  | _ => obtain ⟨-, -, x, -, rfl⟩ := h; rfl

theorem State.storeChunks_status (s : State) (off : Nat) (chunks : List (Nat × Nat)) :
    (s.storeChunks off chunks).status = s.status := by
  rw [State.storeChunks_eq]

theorem applyEffect_status_none (e : Effect) (s : State) :
    (applyEffect e s).status.none = (s.status.none || e.setsNone) := by
  cases e <;> simp [applyEffect, Effect.setsNone, State.storeChunks_status]

theorem applyEffect_status_decfail (e : Effect) (s : State) :
    (applyEffect e s).status.decfail = (s.status.decfail || e.setsDecfail) := by
  cases e <;> simp [applyEffect, Effect.setsDecfail, State.storeChunks_status]

/-- What an effect leaves in the register it writes does not depend on the state. -/
theorem applyEffect_reg_dest {e : Effect} {d : Reg} (h : e.dest = some d) (s s' : State) :
    (applyEffect e s).reg d = (applyEffect e s').reg d := by
  cases e with
  | nothing | store => cases h
  | put | noneResult | decodeFailure => cases h; simp [applyEffect]

/-- A store leaves the same bytes in its words whatever the state held before (40_data_movement.md R167). -/
theorem State.iobufByte_storeChunks_inside (s s' : State) {off : Nat} {chunks : List (Nat × Nat)} {x : Nat}
    (hlo : 8 * off ≤ x) (hhi : x < 8 * (off + chunkWords chunks)) :
    (s.storeChunks off chunks).iobufByte x = (s'.storeChunks off chunks).iobufByte x := by
  induction chunks generalizing s s' off with
  | nil => simp only [chunkWords_nil] at hhi; omega
  | cons c rest ih =>
    obtain ⟨words, v⟩ := c
    simp only [chunkWords_cons] at hhi
    simp only [State.storeChunks]
    by_cases hx : x < 8 * (off + words)
    · rw [State.iobufByte_storeChunks _ _ _ _ (.inl hx), State.iobufByte_storeChunks _ _ _ _ (.inl hx),
        State.iobufByte_memWrite, State.iobufByte_memWrite, if_pos (by omega), if_pos (by omega)]
    · exact ih _ _ (by omega) (by omega)

/-- ST and STM commit a store of the words of their type (40_data_movement.md R163, R164). -/
theorem Commits.store_of_st {s : State} {i : Instr} {e : Effect} {t : TCode} {d : Reg} {off : BitVec 10}
    (h : Commits s i e) (hi : i = .st t d off ∨ i = .stm t d off) :
    ∃ chunks, e = .store off.toNat chunks ∧ chunkWords chunks = wordsOf t := by
  obtain rfl | rfl := hi
  · obtain ⟨-, -, hd, rfl⟩ := h
    exact ⟨_, rfl, by rw [encodeCanonical, chunkWords_chunksOf, hd.tag_eq]⟩
  · obtain ⟨-, -, hd, rfl⟩ := h
    exact ⟨_, rfl, by rw [encodeRaw, chunkWords_chunksOf, hd.tag_eq]⟩

/-- Settles O60: both states commit one effect (`SameInputs.commits`), and what an effect writes does not
depend on the state it is committed to. -/
theorem resultDependsOnlyOnSources : Obligations.ResultDependsOnlyOnSources := by
  intro i s s' hP hsrc hbytes
  have h : SameInputs i s s' := ⟨hP, fun p hp => hsrc p.1 p.2 hp, hbytes⟩
  refine ⟨h.faultOf_eq, fun hf => ?_⟩
  obtain ⟨e, he⟩ := commits_of_no_fault hf
  refine ⟨_, _, e.setsNone, e.setsDecfail, he.exec_eq, (h.commits he).exec_eq, fun d hd => ?_,
    fun t d off hi a hlo hhi => ?_, applyEffect_status_none e s, applyEffect_status_none e s',
    applyEffect_status_decfail e s, applyEffect_status_decfail e s'⟩
  · exact applyEffect_reg_dest (he.dest_eq.trans hd) s s'
  · obtain ⟨chunks, rfl, hwords⟩ := he.store_of_st hi
    exact State.iobufByte_storeChunks_inside s s' hlo (hwords ▸ hhi)

end Sys2Proof.Machine
end

section
/-!
Encoding and decoding of command words: a word is the packing of its fields, the reserved bits of each
format, and the round trip both ways (30_encoding.md R121, R122, R126, R129, R130).
-/

namespace Sys2Proof

open Machine

/-! ### A word and its fields -/

/-- The fields of R121 cover the word: X and B join to bits [13:0], and so on up to OP. -/
theorem packWord_fields (w : Command) :
    packWord (opField w) (tField w) (dField w) (aField w) (bField w) (xField w) = w := by
  simp only [packWord, opField, tField, dField, aField, bField, xField]
  rw [BitVec.extractLsb'_append_extractLsb'_eq_extractLsb' (start₂ := 26) rfl,
    BitVec.extractLsb'_append_extractLsb'_eq_extractLsb' (start₂ := 22) rfl,
    BitVec.extractLsb'_append_extractLsb'_eq_extractLsb' (start₂ := 18) rfl,
    BitVec.extractLsb'_append_extractLsb'_eq_extractLsb' (start₂ := 14) rfl,
    BitVec.extractLsb'_append_extractLsb'_eq_extractLsb' (start₂ := 10) rfl]
  exact extract_all w

/-- C and the reserved bits of format S cover X (30_encoding.md R122). -/
theorem cField_append_xLowField (w : Command) : cField w ++ xLowField w = xField w :=
  BitVec.extractLsb'_append_extractLsb'_eq_extractLsb' rfl

theorem word_eq_zero_iff {w : Command} :
    w = 0 ↔ opField w = 0 ∧ tField w = 0 ∧ dField w = 0 ∧ aField w = 0 ∧ bField w = 0 ∧ xField w = 0 := by
  constructor
  · rintro rfl
    decide
  · rintro ⟨hop, ht, hd, ha, hb, hx⟩
    rw [← packWord_fields w, hop, ht, hd, ha, hb, hx]
    decide

theorem opField_and (w m : Command) : opField (w &&& m) = opField w &&& opField m := BitVec.extractLsb'_and
theorem tField_and (w m : Command) : tField (w &&& m) = tField w &&& tField m := BitVec.extractLsb'_and
theorem dField_and (w m : Command) : dField (w &&& m) = dField w &&& dField m := BitVec.extractLsb'_and
theorem aField_and (w m : Command) : aField (w &&& m) = aField w &&& aField m := BitVec.extractLsb'_and
theorem bField_and (w m : Command) : bField (w &&& m) = bField w &&& bField m := BitVec.extractLsb'_and
theorem xField_and (w m : Command) : xField (w &&& m) = xField w &&& xField m := BitVec.extractLsb'_and

/-- A mask packed from a mask for each field tests each field with its own. -/
theorem and_packWord_eq_zero_iff {w : Command} {op : BitVec 6} {t d a b : BitVec 4} {x : BitVec 10} :
    w &&& packWord op t d a b x = 0 ↔
      opField w &&& op = 0 ∧ tField w &&& t = 0 ∧ dField w &&& d = 0 ∧ aField w &&& a = 0 ∧
        bField w &&& b = 0 ∧ xField w &&& x = 0 := by
  rw [word_eq_zero_iff, opField_and, tField_and, dField_and, aField_and, bField_and, xField_and,
    opField_packWord, tField_packWord, dField_packWord, aField_packWord, bField_packWord, xField_packWord]

/-- The mask of format S leaves C out of X (30_encoding.md R122). -/
theorem xField_and_low_eq_zero_iff {w : Command} :
    xField w &&& ((0 : BitVec 4) ++ BitVec.allOnes 6) = 0 ↔ xLowField w = 0 := by
  have hand : xField w &&& ((0 : BitVec 4) ++ BitVec.allOnes 6) = (0 : BitVec 4) ++ xLowField w := by
    rw [← cField_append_xLowField, BitVec.and_append, BitVec.and_allOnes]
    exact congrArg (· ++ xLowField w) BitVec.and_zero
  rw [hand]
  constructor
  · intro h
    have hlow := congrArg (BitVec.extractLsb' 0 6) h
    rwa [BitVec.extractLsb'_append_eq_right] at hlow
  · intro h
    rw [h]
    rfl

/-! ### What a decoder makes of a word, by the bits that must be zero -/

/-- What 30_encoding.md R129 and R130 make of a word `w` whose OP has the reserved bits of the mask, none
for a reserved OP. A word that decodes is its command's word. -/
inductive DecodesTo (w : Command) : Option Command → Decoded → Prop
  | illegalOpcode : DecodesTo w none (.fault .illegalOpcode)
  | reservedField {m : Command} (h : w &&& m ≠ 0) : DecodesTo w (some m) (.fault .reservedField)
  | command {m : Command} {i : Instr} (h : w &&& m = 0) (hi : encode i = w) : DecodesTo w (some m) (.instr i)

section Outcomes

variable {w : Command} {o : Option Command} {y : Decoded}

theorem DecodesTo.illegalOpcode_iff (h : DecodesTo w o y) : y = .fault .illegalOpcode ↔ o = none := by
  cases h <;> simp

theorem DecodesTo.reservedField_iff (h : DecodesTo w o y) :
    y = .fault .reservedField ↔ ∃ m, o = some m ∧ w &&& m ≠ 0 := by
  cases h with
  | illegalOpcode => simp
  | reservedField hm => simpa using hm
  | command hm => simpa using hm

theorem DecodesTo.exists_instr (h : DecodesTo w o y) (ho : o ≠ none) (hz : ∀ m, o = some m → w &&& m = 0) :
    ∃ i, y = .instr i := by
  cases h with
  | illegalOpcode => exact absurd rfl ho
  | reservedField hm => exact absurd (hz _ rfl) hm
  | command => exact ⟨_, rfl⟩

theorem DecodesTo.encode_eq {i : Instr} (h : DecodesTo w o y) (hy : y = .instr i) : encode i = w := by
  cases h with
  | illegalOpcode | reservedField => cases hy
  | command _ hi => exact Decoded.instr.inj hy ▸ hi

end Outcomes

theorem decodesTo_unlessReserved {w m : Command} {zero : Bool} {i : Instr} (hm : zero = true ↔ w &&& m = 0)
    (hi : zero = true → encode i = w) : DecodesTo w (some m) (unlessReserved zero i) := by
  cases zero with
  | false => exact .reservedField fun h => absurd (hm.2 h) Bool.false_ne_true
  | true => exact .command (hm.1 rfl) (hi rfl)

/-! ### The formats of 30_encoding.md R122

Each decoder refuses the words with a bit of its format's mask and drops no bit of the others; `hk` says
which word the command has. -/

section Formats

variable {w : Command} {op : BitVec 6}

theorem decodeN_decodesTo {i : Instr} (hk : encode i = packWord op 0 0 0 0 0)
    (hop : (opField w).toNat = op.toNat) : DecodesTo w (some 0x03FFFFFF) (decodeN w i) := by
  obtain rfl := BitVec.eq_of_toNat_eq hop
  refine decodesTo_unlessReserved ?_ fun h => ?_
  · rw [show (0x03FFFFFF : Command) = packWord 0 (.allOnes 4) (.allOnes 4) (.allOnes 4) (.allOnes 4)
      (.allOnes 10) from rfl, and_packWord_eq_zero_iff]
    simp [-BitVec.reduceAllOnes, and_assoc]
  · simp only [Bool.and_eq_true, beq_iff_eq] at h
    obtain ⟨⟨⟨⟨ht, hd⟩, ha⟩, hb⟩, hx⟩ := h
    have hw := packWord_fields w
    rw [ht, hd, ha, hb, hx] at hw
    exact hk.trans hw

theorem decodeM_decodesTo {k : TCode → Reg → BitVec 10 → Instr}
    (hk : ∀ t d x, encode (k t d x) = encodeM op t d x) (hop : (opField w).toNat = op.toNat) :
    DecodesTo w (some 0x0003FC00) (decodeM w k) := by
  obtain rfl := BitVec.eq_of_toNat_eq hop
  refine decodesTo_unlessReserved ?_ fun h => ?_
  · rw [show (0x0003FC00 : Command) = packWord 0 0 0 (.allOnes 4) (.allOnes 4) 0 from rfl,
      and_packWord_eq_zero_iff]
    simp [-BitVec.reduceAllOnes]
  · simp only [Bool.and_eq_true, beq_iff_eq] at h
    obtain ⟨ha, hb⟩ := h
    have hw := packWord_fields w
    rw [ha, hb] at hw
    rwa [hk, encodeM, typeBits_typeOfBits]

theorem decodeR2_decodesTo {k : TCode → Reg → Reg → Instr}
    (hk : ∀ t d a, encode (k t d a) = encodeR2 op t d a) (hop : (opField w).toNat = op.toNat) :
    DecodesTo w (some 0x00003FFF) (decodeR2 w k) := by
  obtain rfl := BitVec.eq_of_toNat_eq hop
  refine decodesTo_unlessReserved ?_ fun h => ?_
  · rw [show (0x00003FFF : Command) = packWord 0 0 0 0 (.allOnes 4) (.allOnes 10) from rfl,
      and_packWord_eq_zero_iff]
    simp [-BitVec.reduceAllOnes]
  · simp only [Bool.and_eq_true, beq_iff_eq] at h
    obtain ⟨hb, hx⟩ := h
    have hw := packWord_fields w
    rw [hb, hx] at hw
    rwa [hk, encodeR2, typeBits_typeOfBits]

theorem decodeR3_decodesTo {k : TCode → Reg → Reg → Reg → Instr}
    (hk : ∀ t d a b, encode (k t d a b) = encodeR3 op t d a b) (hop : (opField w).toNat = op.toNat) :
    DecodesTo w (some 0x000003FF) (decodeR3 w k) := by
  obtain rfl := BitVec.eq_of_toNat_eq hop
  refine decodesTo_unlessReserved ?_ fun h => ?_
  · rw [show (0x000003FF : Command) = packWord 0 0 0 0 0 (.allOnes 10) from rfl, and_packWord_eq_zero_iff]
    simp [-BitVec.reduceAllOnes]
  · have hw := packWord_fields w
    rw [eq_of_beq h] at hw
    rwa [hk, encodeR3, typeBits_typeOfBits]

theorem decodeS_decodesTo {k : TCode → Reg → Reg → Reg → Reg → Instr}
    (hk : ∀ t d a b c, encode (k t d a b c) = packWord op (typeBits t) d a b (c ++ (0 : BitVec 6)))
    (hop : (opField w).toNat = op.toNat) : DecodesTo w (some 0x0000003F) (decodeS w k) := by
  obtain rfl := BitVec.eq_of_toNat_eq hop
  refine decodesTo_unlessReserved ?_ fun h => ?_
  · rw [show (0x0000003F : Command) = packWord 0 0 0 0 0 ((0 : BitVec 4) ++ BitVec.allOnes 6) from rfl,
      and_packWord_eq_zero_iff, xField_and_low_eq_zero_iff]
    simp
  · have hw := packWord_fields w
    rw [← cField_append_xLowField, eq_of_beq h] at hw
    rwa [hk, typeBits_typeOfBits]

theorem decodeF_decodesTo {k : TCode → Reg → Reg → BitVec 10 → Instr}
    (hk : ∀ t d a x, encode (k t d a x) = packWord op (typeBits t) d a 0 x)
    (hop : (opField w).toNat = op.toNat) : DecodesTo w (some 0x00003C00) (decodeF w k) := by
  obtain rfl := BitVec.eq_of_toNat_eq hop
  refine decodesTo_unlessReserved ?_ fun h => ?_
  · rw [show (0x00003C00 : Command) = packWord 0 0 0 0 (.allOnes 4) 0 from rfl, and_packWord_eq_zero_iff]
    simp [-BitVec.reduceAllOnes]
  · have hw := packWord_fields w
    rw [eq_of_beq h] at hw
    rwa [hk, typeBits_typeOfBits]

end Formats

/-! ### The opcode map (30_encoding.md R126) -/

/-- The opcodes R126 reserves are those without a format. -/
theorem reservedBits_eq_none_iff {op : Nat} :
    reservedBits op = none ↔ (0x08 ≤ op ∧ op ≤ 0x0F) ∨ op = 0x1E ∨ op = 0x1F ∨ 0x29 ≤ op := by
  unfold reservedBits
  split_ifs with hN hM hS hR2 hP hR3 hF <;>
    simp only [List.mem_cons, List.not_mem_nil, or_false, true_iff, false_iff] at * <;>
    omega

theorem decode_of_reserved {w : Command} (h : reservedBits (opField w).toNat = none) :
    decode w = .fault .illegalOpcode := by
  unfold decode
  split
  case h_32 => rfl
  all_goals simp_all [reservedBits]

/-- The opcode map read once for both directions: by the formats of `reservedBits`, each listed opcode
has a decoder of its format. -/
theorem decode_decodesTo (w : Command) : DecodesTo w (reservedBits (opField w).toNat) (decode w) := by
  cases hm : reservedBits (opField w).toNat with
  | none =>
    rw [decode_of_reserved hm]
    exact .illegalOpcode
  | some m =>
    unfold reservedBits at hm
    split_ifs at hm with hN hM hS hR2 hP hR3 hF <;> obtain rfl := Option.some.inj hm <;>
      simp only [List.mem_cons, List.not_mem_nil, or_false] at *
    · simp only [decode, hN]
      exact decodeN_decodesTo rfl hN
    · rcases hM with h | h | h | h | h <;> simp only [decode, h] <;>
        exact decodeM_decodesTo (fun _ _ _ => rfl) h
    · simp only [decode, hS]
      exact decodeS_decodesTo (fun _ _ _ _ _ => rfl) hS
    · rcases hR2 with h | h | h | h | h | h | h | h | h | h <;> simp only [decode, h] <;>
        exact decodeR2_decodesTo (fun _ _ _ => rfl) h
    · rcases hP with h | h | h | h | h | h <;> simp only [decode, h] <;>
        exact decodeR2_decodesTo (fun _ _ _ => rfl) h
    · rcases hR3 with h | h | h | h | h | h | h <;> simp only [decode, h] <;>
        exact decodeR3_decodesTo (fun _ _ _ _ => rfl) h
    · simp only [decode, hF]
      exact decodeF_decodesTo (fun _ _ _ _ => rfl) hF

/-! ### The word of a command, by format -/

theorem decodeM_encodeM (op : BitVec 6) (t : TCode) (d : Reg) (x : BitVec 10)
    (k : TCode → Reg → BitVec 10 → Instr) : decodeM (encodeM op t d x) k = .instr (k t d x) := by
  simp [decodeM, encodeM, unlessReserved]

theorem decodeR2_encodeR2 (op : BitVec 6) (t : TCode) (d a : Reg) (k : TCode → Reg → Reg → Instr) :
    decodeR2 (encodeR2 op t d a) k = .instr (k t d a) := by
  simp [decodeR2, encodeR2, unlessReserved]

theorem decodeR3_encodeR3 (op : BitVec 6) (t : TCode) (d a b : Reg) (k : TCode → Reg → Reg → Reg → Instr) :
    decodeR3 (encodeR3 op t d a b) k = .instr (k t d a b) := by
  simp [decodeR3, encodeR3, unlessReserved]

/-- Settles O1: the word's OP selects the decoder of the command's format, which reads its fields back. -/
theorem decodeOfEncode : Obligations.DecodeOfEncode := by
  intro i
  have hop : opField (encode i) = opcodeOf i := by
    cases i <;> simp [encode, encodeM, encodeR2, encodeR3, opcodeOf]
  unfold decode
  rw [hop]
  cases i with
  | nop => rfl
  | ld | st | ldm | stm | const => exact decodeM_encodeM ..
  | sel => simp [opcodeOf, encode, decodeS, unlessReserved]
  | frob => simp [opcodeOf, encode, decodeF, unlessReserved]
  | add | sub | mul | eq | padd | psmul | peq => exact decodeR3_encodeR3 ..
  | _ => exact decodeR2_encodeR2 ..

/-- Settles O2: of the outcomes of `decode_decodesTo` only `command` is a command. -/
theorem encodeOfDecode : Obligations.EncodeOfDecode :=
  fun w _ hi => (decode_decodesTo w).encode_eq hi

/-! ### Refused words -/

/-- The ENGINE's turn on a word the decoder refuses takes its fault (60_exceptions.md R425 steps 1, 2). -/
theorem step_of_refused_word {s : State} {w : Command} {rest : List Input} {c : FaultCode}
    (hs : s.inputs = .engine :: rest) (hw : s.inflight = some w) (hd : decode w = .fault c) :
    ∃ t, step s = .next t ∧ FaultTaken c w { s with inputs := rest } t := by
  have hw' : ({ s with inputs := rest } : State).inflight = some w := hw
  refine ⟨takeFault c { s with inputs := rest }, ?_, ?_⟩
  · rw [step_of_engine_turn hs, engineStep_of_refused_word hw' hd]
  · simpa only [inflightWord_of_some hw'] using takeFault_spec c { s with inputs := rest }

/-- Settles O4: the decoder's clauses are the outcomes of `decode_decodesTo`, and a refused word faults by
`step_of_refused_word`. -/
theorem reservedWordsFault : Obligations.ReservedWordsFault := by
  intro w op reserved
  have hres : reserved ↔ reservedBits op = none := reservedBits_eq_none_iff.symm
  have hdec : DecodesTo w (reservedBits op) (decode w) := decode_decodesTo w
  refine ⟨hdec.illegalOpcode_iff.trans hres.symm, hdec.reservedField_iff, hres,
    fun hdef => hdec.exists_instr (mt hres.2 hdef), fun s rest hs hw => ⟨fun hr => ?_, fun m hm hbits => ?_⟩⟩
  · exact step_of_refused_word hs hw (hdec.illegalOpcode_iff.2 (hres.1 hr))
  · exact step_of_refused_word hs hw (hdec.reservedField_iff.2 ⟨m, hm, hbits⟩)

/-! ### The example words -/

/-- Settles O3: each word is the word of its command, which decodes to it (`decodeOfEncode`). -/
theorem exampleWordsDecode : Obligations.ExampleWordsDecode :=
  ⟨decodeOfEncode .nop, decodeOfEncode (.ld .fr 1 4), decodeOfEncode (.const .fq 5 1),
    decodeOfEncode (.sel .fr 0 1 2 3), decodeOfEncode (.add .fr 0 1 2), decodeOfEncode (.inv .fq 2 3),
    decodeOfEncode (.frob .fq12 1 2 1), decodeOfEncode (.padd .g1p 3 1 2),
    decodeOfEncode (.psmul .g1p 2 1 0)⟩

end Sys2Proof
end

section
/-!
The integers of a value: canonical values and Montgomery form as inverse readings of a base field
(41_field_kernel.md R201), and the coefficients of a value in the order of 40_data_movement.md R161, canonical
or raw. A register's contents are known by its type, its flag and its canonical integers.
-/

namespace Sys2Proof.Machine

open Config

/-! ### Canonical values of a base field -/

section

variable {w : Nat} {F : BaseField w}

theorem valOf_spec (hF : BaseFieldLaws F) (m : BitVec w) :
    valOf F m < F.p.toNat ∧ valOf F m * 2 ^ w ≡ m.toNat [MOD F.p.toNat] :=
  montReduce_spec hF (m.isLt.trans_le (Nat.le_mul_of_pos_left _ (by have := hF.three_le; omega)))

theorem valOf_lt (hF : BaseFieldLaws F) (m : BitVec w) : valOf F m < F.p.toNat := (valOf_spec hF m).1

theorem natCast_valOf (hF : BaseFieldLaws F) (m : BitVec w) : (valOf F m : ZMod F.p.toNat) = residue F m := by
  rw [eq_residue_iff hF]
  exact_mod_cast (ZMod.natCast_eq_natCast_iff _ _ _).2 (valOf_spec hF m).2

/-- The canonical value is the one integer below the modulus with the element's residue. -/
theorem valOf_eq_of_residue (hF : BaseFieldLaws F) {m : BitVec w} {v : Nat} (hv : v < F.p.toNat)
    (h : residue F m = v) : valOf F m = v := by
  have hmod := (ZMod.natCast_eq_natCast_iff' _ _ _).1 ((natCast_valOf hF m).trans h)
  rwa [Nat.mod_eq_of_lt (valOf_lt hF m), Nat.mod_eq_of_lt hv] at hmod

theorem valOf_zero (hF : BaseFieldLaws F) : valOf F 0 = 0 :=
  valOf_eq_of_residue hF (by have := hF.three_le; omega) (by rw [Nat.cast_zero]; exact residue_zero)

theorem valOf_one (hF : BaseFieldLaws F) : valOf F F.one = 1 :=
  valOf_eq_of_residue hF (by have := hF.three_le; omega) (by simp [residue_one hF])

theorem canonical_ofNat {v : Nat} (hv : v < F.p.toNat) : canonical F (BitVec.ofNat w v) = true := by
  rwa [canonical_iff, BitVec.toNat_ofNat, Nat.mod_eq_of_lt (hv.trans F.p.isLt)]

/-- R2_F is the Montgomery form of R_F (00_scope.md R8). -/
theorem residue_r2 (hF : BaseFieldLaws F) : residue F F.r2 = 2 ^ w := by
  rw [eq_comm, eq_residue_iff hF, hF.r2]
  simp

theorem residue_montOf (hF : BaseFieldLaws F) {v : Nat} (hv : v < F.p.toNat) :
    residue F (montOf F v) = v := by
  rw [montOf, residue_montMul hF _ (canonical_ofNat hv), residue_r2 hF, residue_mul_two_pow hF,
    BitVec.toNat_ofNat, Nat.mod_eq_of_lt (hv.trans F.p.isLt)]

/-- The Montgomery form of a canonical value has that value (41_field_kernel.md R201). -/
theorem valOf_montOf (hF : BaseFieldLaws F) {v : Nat} (hv : v < F.p.toNat) : valOf F (montOf F v) = v :=
  valOf_eq_of_residue hF hv (residue_montOf hF hv)

theorem montOf_canonical (hF : BaseFieldLaws F) {v : Nat} (hv : v < F.p.toNat) :
    canonical F (montOf F v) = true :=
  montMul_canonical hF _ (canonical_ofNat hv)

theorem montOf_valOf (hF : BaseFieldLaws F) {m : BitVec w} (hm : canonical F m = true) :
    montOf F (valOf F m) = m :=
  residue_inj hF (montOf_canonical hF (valOf_lt hF m)) hm
    (by rw [residue_montOf hF (valOf_lt hF m), natCast_valOf hF])

end

/-! ### The coefficients of a value -/

/-- The coefficients of a value in the order of 40_data_movement.md R161, each turned into an integer by `g`
(FR) or `f` (FQ). -/
def intsOf (g : Fr → Nat) (f : Fq → Nat) : Value → List Nat
  | .empty | .bool _ => []
  | .fr m => [g m]
  | .fq m => [f m]
  | .fq2 a => [f a.c0, f a.c1]
  | .fq6 a => [f a.c0.c0, f a.c0.c1, f a.c1.c0, f a.c1.c1, f a.c2.c0, f a.c2.c1]
  | .fq12 a => [f a.c0.c0.c0, f a.c0.c0.c1, f a.c0.c1.c0, f a.c0.c1.c1, f a.c0.c2.c0, f a.c0.c2.c1,
      f a.c1.c0.c0, f a.c1.c0.c1, f a.c1.c1.c0, f a.c1.c1.c1, f a.c1.c2.c0, f a.c1.c2.c1]
  | .g1a p => [f p.x, f p.y]
  | .g1p p => [f p.x, f p.y, f p.z]
  | .g2a p => [f p.x.c0, f p.x.c1, f p.y.c0, f p.y.c1]
  | .g2p p => [f p.x.c0, f p.x.c1, f p.y.c0, f p.y.c1, f p.z.c0, f p.z.c1]
  | .eda p => [g p.x, g p.y]
  | .ede p => [g p.x, g p.y, g p.t, g p.z]

theorem coeffs_eq_intsOf (P : ParamStore) (x : Value) : coeffs P x = intsOf (valOf P.fr) (valOf P.fq) x := by
  cases x <;> rfl

theorem rawCoeffs_eq_intsOf {x : Value} (h : tagOf x ∈ fieldTypes) :
    rawCoeffs x = intsOf BitVec.toNat BitVec.toNat x := by
  cases x <;> simp [tagOf, fieldTypes] at h <;> rfl

theorem length_intsOf (g : Fr → Nat) (f : Fq → Nat) (x : Value) :
    (intsOf g f x).length = coeffCount (tagOf x) := by
  cases x <;> rfl

/-- The coefficients of a value are of one base field: what holds of all its elements' integers holds of
them. -/
theorem forall_mem_intsOf {g : Fr → Nat} {f : Fq → Nat} {Q : Nat → Prop} {x : Value}
    (hg : overFr (tagOf x) = true → ∀ m, Q (g m)) (hf : overFr (tagOf x) = false → ∀ m, Q (f m)) :
    ∀ v ∈ intsOf g f x, Q v := by
  cases x with
  | empty | bool => simp [intsOf]
  | fr | eda | ede => simp [intsOf, hg rfl]
  | _ => simp [intsOf, hf rfl]

theorem coeffs_lt_modulus {P : ParamStore} (hP : ParamLaws P) (x : Value) :
    ∀ v ∈ coeffs P x, v < modulusOf P (tagOf x) := by
  rw [coeffs_eq_intsOf]
  exact forall_mem_intsOf (fun h m => by rw [modulusOf, if_pos h]; exact valOf_lt hP.fr m)
    (fun h m => by rw [modulusOf, h]; exact valOf_lt hP.fq m)

/-- A raw integer of `n` limbs takes `n` words. -/
theorem toNat_lt_words {n : Nat} (m : BitVec (64 * n)) : m.toNat < 256 ^ (8 * n) := by
  have hpow : (256 : Nat) ^ (8 * n) = 2 ^ (64 * n) := by rw [show 256 = 2 ^ 8 from rfl, ← pow_mul]; ring_nf
  exact hpow ▸ m.isLt

/-- Every coefficient fits its words of the layout (40_data_movement.md R161). -/
theorem intsOf_lt {g : Fr → Nat} {f : Fq → Nat} (hg : ∀ m, g m < 256 ^ (8 * 4))
    (hf : ∀ m, f m < 256 ^ (8 * 6))
    (x : Value) : ∀ v ∈ intsOf g f x, v < 256 ^ (8 * coeffWords (tagOf x)) :=
  forall_mem_intsOf (fun h m => by rw [coeffWords, if_pos h]; exact hg m)
    (fun h m => by rw [coeffWords, h]; exact hf m)

theorem affineOk_iff {K : Type} [DecidableEq K] {F : FieldOps K} {ok : K → Bool} {a : AffinePoint K} :
    affineOk F ok a = true ↔
      ok a.x = true ∧ ok a.y = true ∧ (a.inf = true → a.x = F.zero ∧ a.y = F.one) := by
  cases hinf : a.inf <;> simp [affineOk, hinf, and_assoc]

theorem projOk_iff {K : Type} {ok : K → Bool} {p : ProjPoint K} :
    projOk ok p = true ↔ ok p.x = true ∧ ok p.y = true ∧ ok p.z = true := by
  simp [projOk, and_assoc]

theorem edAffineOk_iff {P : ParamStore} {a : EdAffine} :
    edAffineOk P a = true ↔ canonical P.fr a.x = true ∧ canonical P.fr a.y = true := by
  simp [edAffineOk]

theorem edExtendedOk_iff {P : ParamStore} {p : EdExtended} :
    edExtendedOk P p = true ↔ canonical P.fr p.x = true ∧ canonical P.fr p.y = true ∧
      canonical P.fr p.t = true ∧ canonical P.fr p.z = true := by
  simp [edExtendedOk, and_assoc]

/-! ### Register contents are known by their integers -/

theorem fq2_ext_iff {a b : Fq2} : a = b ↔ a.c0 = b.c0 ∧ a.c1 = b.c1 := by
  cases a; cases b; simp

theorem fq6_ext_iff {a b : Fq6} : a = b ↔ a.c0 = b.c0 ∧ a.c1 = b.c1 ∧ a.c2 = b.c2 := by
  cases a; cases b; simp

theorem fq12_ext_iff {a b : Fq12} : a = b ↔ a.c0 = b.c0 ∧ a.c1 = b.c1 := by
  cases a; cases b; simp

theorem affinePoint_ext_iff {K : Type} {p q : AffinePoint K} :
    p = q ↔ p.x = q.x ∧ p.y = q.y ∧ p.inf = q.inf := by
  cases p; cases q; simp

theorem projPoint_ext_iff {K : Type} {p q : ProjPoint K} : p = q ↔ p.x = q.x ∧ p.y = q.y ∧ p.z = q.z := by
  cases p; cases q; simp

theorem edAffine_ext_iff {p q : EdAffine} : p = q ↔ p.x = q.x ∧ p.y = q.y := by
  cases p; cases q; simp

theorem edExtended_ext_iff {p q : EdExtended} :
    p = q ↔ p.x = q.x ∧ p.y = q.y ∧ p.t = q.t ∧ p.z = q.z := by
  cases p; cases q; simp

/-- A value is its type, its flag and its limbs (10_state.md R33). -/
theorem value_ext_raw {x y : Value} (htag : tagOf x = tagOf y) (hflag : flagOf x = flagOf y)
    (h : intsOf BitVec.toNat BitVec.toNat x = intsOf BitVec.toNat BitVec.toNat y) : x = y := by
  -- equal tags leave one constructor at a time, and its payload is known by its parts
  cases x <;> cases y <;> cases htag <;>
    simp only [intsOf, flagOf, List.cons.injEq, Option.some.injEq, ← BitVec.toNat_eq, and_true] at h hflag <;>
    simp [fq2_ext_iff, fq6_ext_iff, fq12_ext_iff, affinePoint_ext_iff, projPoint_ext_iff, edAffine_ext_iff,
      edExtended_ext_iff, h, hflag]

/-- The limbs of a canonical coefficient of a type, from its canonical integer (41_field_kernel.md R201). -/
def limbsOf (P : ParamStore) (t : TCode) (v : Nat) : Nat :=
  if overFr t then (montOf P.fr v).toNat else (montOf P.fq v).toNat

theorem map_limbsOf_coeffs {P : ParamStore} (hP : ParamLaws P) {x : Value} (hx : valueOk P x = true) :
    (coeffs P x).map (limbsOf P (tagOf x)) = intsOf BitVec.toNat BitVec.toNat x := by
  have hfr := @montOf_valOf _ _ hP.fr
  have hfq := @montOf_valOf _ _ hP.fq
  cases x with
  | empty | bool => rfl
  | _ =>
    simp only [valueOk, affineOk, projOk, edAffineOk, edExtendedOk, canonical12, canonical6, canonical2,
      Bool.and_eq_true] at hx
    simp [coeffs_eq_intsOf, intsOf, limbsOf, overFr, tagOf, hfr, hfq, hx]

/-- Two canonical values of one type with the same flag and the same canonical integers are one
(10_state.md R35). -/
theorem value_ext {P : ParamStore} (hP : ParamLaws P) {x y : Value} (hx : valueOk P x = true)
    (hy : valueOk P y = true) (htag : tagOf x = tagOf y) (hflag : flagOf x = flagOf y)
    (h : coeffs P x = coeffs P y) : x = y :=
  value_ext_raw htag hflag (by rw [← map_limbsOf_coeffs hP hx, ← map_limbsOf_coeffs hP hy, h, htag])

end Sys2Proof.Machine
end

section
/-!
The layouts of 40_data_movement.md R161 in IOBUF: a load finds the integers of the value's coefficients where
`ints` says, and rejects one not below the modulus; a store writes them there. Both are said once for the
canonical and the raw coding (R162 to R164).
-/

namespace Sys2Proof.Machine

open Config

/-! ### Consecutive integers -/

/-- `count` consecutive integers of `n` words each, from word offset `off` on (40_data_movement.md R161). -/
def State.ints (s : State) (n count off : Nat) : List Nat :=
  (List.range count).map fun k => s.memRead (8 * (off + n * k)) (8 * n)

theorem loadedCoeffs_eq_ints (s : State) (t : TCode) (off : Nat) :
    loadedCoeffs s t off = s.ints (coeffWords t) (coeffCount t) off := rfl

theorem State.ints_succ (s : State) (n count off : Nat) :
    s.ints n (count + 1) off = s.memRead (8 * off) (8 * n) :: s.ints n count (off + n) := by
  simp only [State.ints, List.range_succ_eq_map, List.map_cons, List.map_map, Nat.mul_zero, Nat.add_zero]
  congr 1
  refine List.map_congr_left fun k _ => ?_
  simp only [Function.comp_apply, Nat.mul_succ]
  congr 2
  omega

theorem State.ints_one (s : State) (n off : Nat) : s.ints n 1 off = [s.memRead (8 * off) (8 * n)] :=
  s.ints_succ n 0 off

theorem State.ints_add (s : State) (n a b off : Nat) :
    s.ints n (a + b) off = s.ints n a off ++ s.ints n b (off + n * a) := by
  induction a generalizing off with
  | zero => simp [State.ints]
  | succ a ih =>
    rw [Nat.add_right_comm, State.ints_succ, State.ints_succ, ih, List.cons_append, Nat.mul_succ,
      Nat.add_assoc, Nat.add_comm n]

theorem State.ints_congr {s u : State} (h : ∀ a, u.iobufByte a = s.iobufByte a) (n count off : Nat) :
    u.ints n count off = s.ints n count off :=
  List.map_congr_left fun _ _ => State.memRead_congr fun x _ _ => h x

/-! ### Loads -/

/-- `read` loads a value of `count` coefficients of `n` words each: when all are below `p` it gives a value
that satisfies `ok` and has those coefficients, else it fails (40_data_movement.md R162, R164). -/
structure Loads {K : Type} (s : State) (n count p : Nat) (ok : K → Prop) (coeffsOf : K → List Nat)
    (read : Nat → Option K) : Prop where
  below : ∀ {off}, (∀ v ∈ s.ints n count off, v < p) →
    ∃ x, read off = some x ∧ ok x ∧ coeffsOf x = s.ints n count off
  above : ∀ {off}, (∃ v ∈ s.ints n count off, p ≤ v) → read off = none

/-- Two values, the second `n` words after the first. -/
def readTwo {A B : Type} (readA : Nat → Option A) (readB : Nat → Option B) (n off : Nat) : Option (A × B) :=
  (readA off).bind fun a => (readB (off + n)).map fun b => (a, b)

theorem Loads.two {A B : Type} {s : State} {n countA countB p : Nat} {okA : A → Prop} {okB : B → Prop}
    {coeffsA : A → List Nat} {coeffsB : B → List Nat} {readA : Nat → Option A} {readB : Nat → Option B}
    (hA : Loads s n countA p okA coeffsA readA) (hB : Loads s n countB p okB coeffsB readB) :
    Loads s n (countA + countB) p (fun c => okA c.1 ∧ okB c.2) (fun c => coeffsA c.1 ++ coeffsB c.2)
      (readTwo readA readB (n * countA)) where
  below h := by
    simp only [State.ints_add, List.forall_mem_append] at h
    obtain ⟨a, ha, hoka, hcoa⟩ := hA.below h.1
    obtain ⟨b, hb, hokb, hcob⟩ := hB.below h.2
    exact ⟨(a, b), by simp [readTwo, ha, hb], ⟨hoka, hokb⟩, by rw [State.ints_add, hcoa, hcob]⟩
  above h := by
    obtain ⟨v, hv, hp⟩ := h
    rw [State.ints_add, List.mem_append] at hv
    obtain hv | hv := hv
    · simp [readTwo, hA.above ⟨v, hv, hp⟩]
    · simp [readTwo, hB.above ⟨v, hv, hp⟩]

theorem Loads.map {A B : Type} {s : State} {n count p : Nat} {ok : A → Prop} {ok' : B → Prop}
    {coeffsA : A → List Nat} {coeffsB : B → List Nat} {read : Nat → Option A}
    (h : Loads s n count p ok coeffsA read) (e : A → B)
    (he : ∀ a, ok a → ok' (e a) ∧ coeffsB (e a) = coeffsA a) :
    Loads s n count p ok' coeffsB fun off => (read off).map e where
  below hlt := by
    obtain ⟨a, ha, hok, hco⟩ := h.below hlt
    exact ⟨e a, by simp [ha], (he a hok).1, (he a hok).2.trans hco⟩
  above hge := by simp [h.above hge]

theorem decCanonical_loads (s : State) {w : Nat} {F : BaseField w} (hF : BaseFieldLaws F) :
    Loads s (limbCount w) 1 F.p.toNat (fun m => canonical F m = true) (fun m => [valOf F m])
      (decCanonical s F) where
  below {off} h := by
    simp only [State.ints_one, List.forall_mem_singleton] at h ⊢
    exact ⟨_, by simp [decCanonical, inRange, readLimbs, h, Nat.mod_eq_of_lt h], montOf_canonical hF h,
      by rw [valOf_montOf hF h]⟩
  above {off} h := by
    simp only [State.ints_one, List.mem_singleton, exists_eq_left] at h
    simp [decCanonical, inRange, readLimbs, Nat.not_lt.2 h]

theorem decRaw_loads (s : State) {w : Nat} (F : BaseField w) :
    Loads s (limbCount w) 1 F.p.toNat (fun m => canonical F m = true) (fun m => [m.toNat])
      (decRaw s F) where
  below {off} h := by
    simp only [State.ints_one, List.forall_mem_singleton] at h ⊢
    exact ⟨_, by simp [decRaw, inRange, readLimbs, h], canonical_ofNat h,
      by rw [BitVec.toNat_ofNat, Nat.mod_eq_of_lt (h.trans F.p.isLt)]⟩
  above {off} h := by
    simp only [State.ints_one, List.mem_singleton, exists_eq_left] at h
    simp [decRaw, inRange, readLimbs, Nat.not_lt.2 h]

/-- A reader of coefficients by the codings `g` (FR) and `f` (FQ). -/
structure CoeffReader.Codes (R : CoeffReader) (s : State) (g : Fr → Nat) (f : Fq → Nat) : Prop where
  fr : Loads s 4 1 s.params.fr.p.toNat (fun m => canonical s.params.fr m = true) (fun m => [g m]) R.fr
  fq : Loads s 6 1 s.params.fq.p.toNat (fun m => canonical s.params.fq m = true) (fun m => [f m]) R.fq

theorem canonicalReader_codes {s : State} (hP : ParamLaws s.params) :
    (canonicalReader s).Codes s (valOf s.params.fr) (valOf s.params.fq) :=
  ⟨decCanonical_loads s hP.fr, decCanonical_loads s hP.fq⟩

theorem rawReader_codes (s : State) : (rawReader s).Codes s BitVec.toNat BitVec.toNat :=
  ⟨decRaw_loads s s.params.fr, decRaw_loads s s.params.fq⟩

theorem readFq2_eq (R : CoeffReader) :
    readFq2 R = fun off => (readTwo R.fq R.fq 6 off).map fun c => ⟨c.1, c.2⟩ := by
  funext off
  unfold readFq2 readTwo
  cases R.fq off <;> cases R.fq (off + 6) <;> rfl

theorem readFq6_eq (R : CoeffReader) :
    readFq6 R = fun off => (readTwo (readFq2 R) (readTwo (readFq2 R) (readFq2 R) 12) 12 off).map
      fun c => ⟨c.1, c.2.1, c.2.2⟩ := by
  funext off
  unfold readFq6 readTwo
  cases readFq2 R off <;> cases readFq2 R (off + 12) <;> cases readFq2 R (off + 24) <;> rfl

theorem readFq12_eq (R : CoeffReader) :
    readFq12 R = fun off => (readTwo (readFq6 R) (readFq6 R) 36 off).map fun c => ⟨c.1, c.2⟩ := by
  funext off
  unfold readFq12 readTwo
  cases readFq6 R off <;> cases readFq6 R (off + 36) <;> rfl

/-- The value of a field or point type whose coefficients `R` reads, an affine point with its flag 0, before
any test of the curve (40_data_movement.md R161). -/
def readCoeffs (R : CoeffReader) (t : TCode) (off : Nat) : Option Value :=
  match t with
  | .g1a => (readTwo R.fq R.fq 6 off).map fun c => .g1a ⟨c.1, c.2, false⟩
  | .g1p => (readTwo R.fq (readTwo R.fq R.fq 6) 6 off).map fun c => .g1p ⟨c.1, c.2.1, c.2.2⟩
  | .g2a => (readTwo (readFq2 R) (readFq2 R) 12 off).map fun c => .g2a ⟨c.1, c.2, false⟩
  | .g2p => (readTwo (readFq2 R) (readTwo (readFq2 R) (readFq2 R) 12) 12 off).map
      fun c => .g2p ⟨c.1, c.2.1, c.2.2⟩
  | .eda => (readTwo R.fr R.fr 4 off).map fun c => .eda ⟨c.1, c.2⟩
  | .ede => (readTwo R.fr (readTwo R.fr (readTwo R.fr R.fr 4) 4) 4 off).map
      fun c => .ede ⟨c.1, c.2.1, c.2.2.1, c.2.2.2⟩
  | t => readField R t off

/-- What a load of type `t` gives: a canonical value of the type, never a flagged one. -/
structure LoadedValue (P : ParamStore) (t : TCode) (x : Value) : Prop where
  tag : tagOf x = t
  ok : valueOk P x = true
  flag : flagOf x ≠ some true

section

variable {R : CoeffReader} {s : State} {g : Fr → Nat} {f : Fq → Nat} (h : R.Codes s g f)

include h

theorem CoeffReader.Codes.fq2 : Loads s 6 2 s.params.fq.p.toNat
    (fun a => canonical2 s.params a = true) (fun a => [f a.c0, f a.c1]) (readFq2 R) := by
  rw [readFq2_eq]
  exact (h.fq.two h.fq).map _ fun a ha => ⟨canonical2_iff.2 ha, rfl⟩

theorem CoeffReader.Codes.fq6 : Loads s 6 6 s.params.fq.p.toNat
    (fun a => canonical6 s.params a = true)
    (fun a => [f a.c0.c0, f a.c0.c1, f a.c1.c0, f a.c1.c1, f a.c2.c0, f a.c2.c1]) (readFq6 R) := by
  rw [readFq6_eq]
  exact (h.fq2.two (h.fq2.two h.fq2)).map _ fun a ha => ⟨canonical6_iff.2 ha, rfl⟩

theorem CoeffReader.Codes.fq12 : Loads s 6 12 s.params.fq.p.toNat
    (fun a => canonical12 s.params a = true) (fun a => intsOf g f (.fq12 a)) (readFq12 R) := by
  rw [readFq12_eq]
  exact (h.fq6.two h.fq6).map _ fun a ha => ⟨canonical12_iff.2 ha, rfl⟩

/-- Every field and point type loads its coefficients from the places of its layout (40_data_movement.md
R161). -/
theorem CoeffReader.Codes.readCoeffs {t : TCode} (ht : t ∈ fieldTypes ++ pointTypes) :
    Loads s (coeffWords t) (coeffCount t) (modulusOf s.params t) (LoadedValue s.params t)
      (intsOf g f) (readCoeffs R t) := by
  cases t
  case fr => exact h.fr.map Value.fr fun m hm => ⟨⟨rfl, hm, nofun⟩, rfl⟩
  case fq => exact h.fq.map Value.fq fun m hm => ⟨⟨rfl, hm, nofun⟩, rfl⟩
  case fq2 => exact h.fq2.map Value.fq2 fun a ha => ⟨⟨rfl, ha, nofun⟩, rfl⟩
  case fq6 => exact h.fq6.map Value.fq6 fun a ha => ⟨⟨rfl, ha, nofun⟩, rfl⟩
  case fq12 => exact h.fq12.map Value.fq12 fun a ha => ⟨⟨rfl, ha, nofun⟩, rfl⟩
  case g1a =>
    exact (h.fq.two h.fq).map _ fun c hc => ⟨⟨rfl, affineOk_iff.2 ⟨hc.1, hc.2, nofun⟩, nofun⟩, rfl⟩
  case g1p => exact (h.fq.two (h.fq.two h.fq)).map _ fun c hc => ⟨⟨rfl, projOk_iff.2 hc, nofun⟩, rfl⟩
  case g2a =>
    exact (h.fq2.two h.fq2).map _ fun c hc => ⟨⟨rfl, affineOk_iff.2 ⟨hc.1, hc.2, nofun⟩, nofun⟩, rfl⟩
  case g2p => exact (h.fq2.two (h.fq2.two h.fq2)).map _ fun c hc => ⟨⟨rfl, projOk_iff.2 hc, nofun⟩, rfl⟩
  case eda => exact (h.fr.two h.fr).map _ fun c hc => ⟨⟨rfl, edAffineOk_iff.2 hc, nofun⟩, rfl⟩
  case ede =>
    exact (h.fr.two (h.fr.two (h.fr.two h.fr))).map _ fun c hc => ⟨⟨rfl, edExtendedOk_iff.2 hc, nofun⟩, rfl⟩
  all_goals simp [fieldTypes, pointTypes] at ht

end

end Sys2Proof.Machine
end

section
/-!
The data movement commands: NOP, LD, ST, LDM, STM, MOV, CONST and SEL each commit one effect, which a load
takes from the layout and a store writes there (40_data_movement.md R160 to R172).
-/

namespace Sys2Proof.Machine

open Config

/-! ### Stores -/

theorem State.storeChunks_append (s : State) (off : Nat) (a b : List (Nat × Nat)) :
    s.storeChunks off (a ++ b) = (s.storeChunks off a).storeChunks (off + chunkWords a) b := by
  induction a generalizing s off with
  | nil => rfl
  | cons c rest ih => simp only [List.cons_append, State.storeChunks, ih, chunkWords_cons, Nat.add_assoc]

/-- The first integer of a store reads back. -/
theorem State.memRead_storeChunks_cons (s : State) (off n v : Nat) (rest : List (Nat × Nat)) :
    (s.storeChunks off ((n, v) :: rest)).memRead (8 * off) (8 * n) = v % 256 ^ (8 * n) := by
  rw [State.storeChunks, ← State.memRead_memWrite s]
  exact State.memRead_congr fun x _ hx => State.iobufByte_storeChunks _ _ _ _ (.inl (by omega))

/-- Stored integers that fit their words read back. -/
theorem State.ints_storeChunks (s : State) (off n : Nat) (vs : List Nat) (rest : List (Nat × Nat))
    (h : ∀ v ∈ vs, v < 256 ^ (8 * n)) :
    (s.storeChunks off (vs.map (Prod.mk n) ++ rest)).ints n vs.length off = vs := by
  induction vs generalizing s off with
  | nil => rfl
  | cons v vs ih =>
    obtain ⟨hv, hvs⟩ := List.forall_mem_cons.1 h
    rw [List.length_cons, State.ints_succ, List.map_cons, List.cons_append, State.memRead_storeChunks_cons,
      Nat.mod_eq_of_lt hv, State.storeChunks, ih _ _ hvs]

/-- The flag or BOOL word of a value's layout, after its coefficients. -/
def flagChunks (x : Value) : List (Nat × Nat) := (flagOf x).toList.map fun b => (1, b.toNat)

theorem chunksOf_eq (g : Fr → Nat) (f : Fq → Nat) (x : Value) :
    chunksOf g f x = (intsOf g f x).map (Prod.mk (coeffWords (tagOf x))) ++ flagChunks x := by
  cases x <;> rfl

theorem chunkWords_map (n : Nat) (vs : List Nat) : chunkWords (vs.map (Prod.mk n)) = n * vs.length := by
  induction vs with
  | nil => rfl
  | cons v vs ih => rw [List.map_cons, chunkWords_cons, ih, List.length_cons, Nat.mul_succ, Nat.add_comm]

/-- A stored value's coefficients and flag are at their places of the layout (40_data_movement.md R161). -/
theorem layout_of_store (s : State) (off : Nat) {g : Fr → Nat} {f : Fq → Nat} (x : Value)
    (hg : ∀ m, g m < 256 ^ (8 * 4)) (hf : ∀ m, f m < 256 ^ (8 * 6)) :
    loadedCoeffs (s.storeChunks off (chunksOf g f x)) (tagOf x) off = intsOf g f x ∧
      ∀ b, flagOf x = some b →
        loadedFlag (s.storeChunks off (chunksOf g f x)) (tagOf x) off = b.toNat := by
  rw [chunksOf_eq, loadedCoeffs_eq_ints, loadedFlag, ← length_intsOf g f x]
  refine ⟨State.ints_storeChunks _ _ _ _ _ (intsOf_lt hg hf x), fun b hb => ?_⟩
  rw [State.storeChunks_append, chunkWords_map, flagChunks, hb, State.iobufWord]
  refine (State.memRead_storeChunks_cons _ _ 1 _ []).trans (Nat.mod_eq_of_lt ?_)
  cases b <;> decide

theorem loadedCoeffs_congr {s u : State} (h : ∀ a, u.iobufByte a = s.iobufByte a) (t : TCode) (off : Nat) :
    loadedCoeffs u t off = loadedCoeffs s t off :=
  State.ints_congr h _ _ _

theorem loadedFlag_congr {s u : State} (h : ∀ a, u.iobufByte a = s.iobufByte a) (t : TCode) (off : Nat) :
    loadedFlag u t off = loadedFlag s t off :=
  State.memRead_congr fun x _ _ => h x

/-- What a store command leaves of the value `x` (40_data_movement.md R163, R164, R167). -/
structure StoresValue (off : Nat) (g : Fr → Nat) (f : Fq → Nat) (x : Value) (s u : State) : Prop where
  stores : Stores off (wordsOf (tagOf x)) s u
  coeffs : loadedCoeffs u (tagOf x) off = intsOf g f x
  flag : ∀ b, flagOf x = some b → loadedFlag u (tagOf x) off = b.toNat

theorem storesValue_of_store (s : State) (off : Nat) {g : Fr → Nat} {f : Fq → Nat} (x : Value)
    (hg : ∀ m, g m < 256 ^ (8 * 4)) (hf : ∀ m, f m < 256 ^ (8 * 6)) :
    StoresValue off g f x s (retire (applyEffect (.store off (chunksOf g f x)) s)) := by
  obtain ⟨hcoeffs, hflag⟩ := layout_of_store s off x hg hf
  have hbytes := retire_iobufByte (applyEffect (.store off (chunksOf g f x)) s)
  refine ⟨?_, (loadedCoeffs_congr hbytes _ _).trans hcoeffs,
    fun b hb => (loadedFlag_congr hbytes _ _).trans (hflag b hb)⟩
  rw [← chunkWords_chunksOf g f]
  exact stores_of_store off _ s

/-! ### What the commands commit -/

theorem Commits.puts {s : State} {i : Instr} {d : Reg} {x : Value} (h : Commits s i (.put d x)) :
    ∃ u, exec i s = .next u ∧ Puts d x s u :=
  ⟨_, h.exec_eq, puts_of_put d x s⟩

theorem Commits.givesDecfail {s : State} {i : Instr} {d : Reg} (h : Commits s i (.decodeFailure d)) :
    ∃ u, exec i s = .next u ∧ GivesDecfail d s u :=
  ⟨_, h.exec_eq, givesDecfail_of_decodeFailure d s⟩

theorem operand_of_tag {s : State} {r : Reg} {t : TCode} (ht : t ∈ allTypes) (h : tagOf (s.reg r) = t) :
    Operand s r [t] := by
  refine ⟨?_, by simp [h]⟩
  rw [h]
  rintro rfl
  exact absurd ht (by decide)

theorem mem_allTypes_of_field {t : TCode} (h : t ∈ fieldTypes) : t ∈ allTypes :=
  List.mem_cons_of_mem _ (List.mem_append_left _ h)

theorem mem_allTypes_of_point {t : TCode} (h : t ∈ pointTypes) : t ∈ allTypes :=
  List.mem_cons_of_mem _ (List.mem_append_right _ h)

section

variable {s : State} {t : TCode} {d : Reg} {off : BitVec 10} (hr : off.toNat + wordsOf t ≤ 1024)

include hr

theorem puts_of_ld (ht : t ∈ allTypes) {x : Value} (h : decodeCanonical s t off.toNat = some x) :
    ∃ u, exec (.ld t d off) s = .next u ∧ Puts d x s u :=
  Commits.puts ⟨ht, decide_eq_true hr, by rw [h]; rfl⟩

theorem givesDecfail_of_ld (ht : t ∈ allTypes) (h : decodeCanonical s t off.toNat = none) :
    ∃ u, exec (.ld t d off) s = .next u ∧ GivesDecfail d s u :=
  Commits.givesDecfail ⟨ht, decide_eq_true hr, by rw [h]; rfl⟩

theorem puts_of_ldm (ht : t ∈ fieldTypes) {x : Value} (h : decodeRaw s t off.toNat = some x) :
    ∃ u, exec (.ldm t d off) s = .next u ∧ Puts d x s u :=
  Commits.puts ⟨ht, decide_eq_true hr, by rw [h]; rfl⟩

theorem givesDecfail_of_ldm (ht : t ∈ fieldTypes) (h : decodeRaw s t off.toNat = none) :
    ∃ u, exec (.ldm t d off) s = .next u ∧ GivesDecfail d s u :=
  Commits.givesDecfail ⟨ht, decide_eq_true hr, by rw [h]; rfl⟩

theorem storesValue_of_st (ht : t ∈ allTypes) (h : tagOf (s.reg d) = t) :
    ∃ u, exec (.st t d off) s = .next u ∧
      StoresValue off.toNat (valOf s.params.fr) (valOf s.params.fq) (s.reg d) s u :=
  ⟨_, Commits.exec_eq ⟨ht, decide_eq_true hr, operand_of_tag ht h, rfl⟩,
    storesValue_of_store s off.toNat _ (fun _ => toNat_lt_words (n := 4) _)
      fun _ => toNat_lt_words (n := 6) _⟩

theorem storesValue_of_stm (ht : t ∈ fieldTypes) (h : tagOf (s.reg d) = t) :
    ∃ u, exec (.stm t d off) s = .next u ∧
      StoresValue off.toNat BitVec.toNat BitVec.toNat (s.reg d) s u :=
  ⟨_, Commits.exec_eq ⟨ht, decide_eq_true hr, operand_of_tag (mem_allTypes_of_field ht) h, rfl⟩,
    storesValue_of_store s off.toNat _ (fun _ => toNat_lt_words (n := 4) _)
      fun _ => toNat_lt_words (n := 6) _⟩

end

/-! ### Canonical decode by type -/

theorem decodeCanonical_bool (s : State) (off : Nat) :
    decodeCanonical s .bool off = (readBool s off).map .bool := rfl

theorem decodeCanonical_of_bit {s : State} {off : Nat} {b : Bool} (h : s.iobufWord off = b.toNat) :
    decodeCanonical s .bool off = some (.bool b) := by
  rw [decodeCanonical_bool]
  cases b <;> simp [readBool, h]

theorem decodeCanonical_of_no_bit {s : State} {off : Nat} (h : 2 ≤ s.iobufWord off) :
    decodeCanonical s .bool off = none := by
  rw [decodeCanonical_bool, readBool, if_neg (by omega), if_neg (by omega), Option.map_none]

theorem decodeCanonical_of_field {s : State} {t : TCode} {off : Nat} (ht : t ∈ fieldTypes) :
    decodeCanonical s t off = readCoeffs (canonicalReader s) t off := by
  simp only [fieldTypes, List.mem_cons, List.not_mem_nil, or_false] at ht
  obtain rfl | rfl | rfl | rfl | rfl := ht <;> rfl

theorem decodeRaw_of_field {s : State} {t : TCode} {off : Nat} (ht : t ∈ fieldTypes) :
    decodeRaw s t off = readCoeffs (rawReader s) t off := by
  simp only [fieldTypes, List.mem_cons, List.not_mem_nil, or_false] at ht
  obtain rfl | rfl | rfl | rfl | rfl := ht <;> rfl

/-- What LD keeps of a point it has read: only a point on its curve (40_data_movement.md R162). -/
def keepOnCurve (P : ParamStore) (x : Value) : Option Value :=
  match pointOnCurve P x with
  | .ok true => some x
  | _ => none

theorem keepOnCurve_eq {P : ParamStore} {x : Value} {b : Bool} (h : pointOnCurve P x = .ok b) :
    keepOnCurve P x = if b then some x else none := by
  cases b <;> simp [keepOnCurve, h]

theorem bind_keepOnCurve {P : ParamStore} {A B : Type} {onCurve : B → Bool} {V : B → Value}
    (hV : ∀ p, pointOnCurve P (V p) = .ok (onCurve p)) (o : Option A) (e : A → B) :
    (o.bind fun a => if onCurve (e a) then some (e a) else none).map V =
      (o.map fun a => V (e a)).bind (keepOnCurve P) := by
  cases o with
  | none => rfl
  | some a =>
    simp only [Option.bind_some, Option.map_some, keepOnCurve_eq (hV (e a))]
    split <;> rfl

section

variable {K : Type} {s : State} {G : GroupOps (AffinePoint K) (ProjPoint K)} {coord : Nat → Option K}
  {n off : Nat}

theorem readAffine_of_flag_one (h : s.iobufWord (off + 2 * n) = 1) :
    readAffine s G coord n off = some G.identityA := if_pos h

theorem readAffine_of_flag_above (h : 2 ≤ s.iobufWord (off + 2 * n)) :
    readAffine s G coord n off = none := by
  rw [readAffine, if_neg (by omega), if_neg (by omega)]

theorem readAffine_of_flag_zero (h : s.iobufWord (off + 2 * n) = 0) :
    readAffine s G coord n off = (readTwo coord coord n off).bind fun c =>
      if G.onCurveA ⟨c.1, c.2, false⟩ then some ⟨c.1, c.2, false⟩ else none := by
  rw [readAffine, if_neg (by omega), if_pos h, readTwo]
  cases coord off <;> cases coord (off + n) <;> rfl

theorem readProj_eq : readProj G coord n off = (readTwo coord (readTwo coord coord n) n off).bind fun c =>
    if G.onCurveE ⟨c.1, c.2.1, c.2.2⟩ then some ⟨c.1, c.2.1, c.2.2⟩ else none := by
  simp only [readProj, readTwo, Nat.two_mul, Nat.add_assoc]
  cases coord off <;> cases coord (off + n) <;> cases coord (off + (n + n)) <;> rfl

theorem readEdAffine_eq (P : ParamStore) (R : CoeffReader) :
    readEdAffine P R off = (readTwo R.fr R.fr 4 off).bind fun c =>
      if onCurveEA P ⟨c.1, c.2⟩ then some ⟨c.1, c.2⟩ else none := by
  rw [readEdAffine, readTwo]
  cases R.fr off <;> cases R.fr (off + 4) <;> rfl

theorem readEdExtended_eq (P : ParamStore) (R : CoeffReader) :
    readEdExtended P R off = (readTwo R.fr (readTwo R.fr (readTwo R.fr R.fr 4) 4) 4 off).bind fun c =>
      if onCurveEE P ⟨c.1, c.2.1, c.2.2.1, c.2.2.2⟩ then some ⟨c.1, c.2.1, c.2.2.1, c.2.2.2⟩ else none := by
  simp only [readEdExtended, readTwo, Nat.add_assoc, Nat.reduceAdd]
  cases R.fr off <;> cases R.fr (off + 4) <;> cases R.fr (off + 8) <;> cases R.fr (off + 12) <;> rfl

end

/-- The types whose layout has a flag word (40_data_movement.md R161). -/
def Flagged (t : TCode) : Prop := t = .g1a ∨ t = .g2a

section

variable {s : State} {t : TCode} {off : Nat}

theorem loadedFlag_bool : loadedFlag s .bool off = s.iobufWord off := by
  rw [loadedFlag, show coeffWords .bool * coeffCount .bool = 0 from rfl, Nat.add_zero]

theorem loadedFlag_g1a : loadedFlag s .g1a off = s.iobufWord (off + 2 * 6) := by
  rw [loadedFlag, show coeffWords .g1a * coeffCount .g1a = 2 * 6 from rfl]

theorem loadedFlag_g2a : loadedFlag s .g2a off = s.iobufWord (off + 2 * 12) := by
  rw [loadedFlag, show coeffWords .g2a * coeffCount .g2a = 2 * 12 from rfl]

theorem decodeCanonical_g1a : decodeCanonical s .g1a off =
    (readAffine s (g1Ops s.params) (canonicalReader s).fq 6 off).map .g1a := rfl

theorem decodeCanonical_g2a : decodeCanonical s .g2a off =
    (readAffine s (g2Ops s.params) (readFq2 (canonicalReader s)) 12 off).map .g2a := rfl

/-- A flag word of 1 is the identity, whatever the coordinate words hold (40_data_movement.md R162). -/
theorem decodeCanonical_of_flag_one (ht : Flagged t) (h : loadedFlag s t off = 1) :
    ∃ x, decodeCanonical s t off = some x ∧ constValue s.params t 0 = .ok x := by
  obtain rfl | rfl := ht
  · rw [loadedFlag_g1a] at h
    exact ⟨_, by rw [decodeCanonical_g1a, readAffine_of_flag_one h, Option.map_some], rfl⟩
  · rw [loadedFlag_g2a] at h
    exact ⟨_, by rw [decodeCanonical_g2a, readAffine_of_flag_one h, Option.map_some], rfl⟩

theorem decodeCanonical_of_flag_above (ht : Flagged t) (h : 2 ≤ loadedFlag s t off) :
    decodeCanonical s t off = none := by
  obtain rfl | rfl := ht
  · rw [loadedFlag_g1a] at h
    rw [decodeCanonical_g1a, readAffine_of_flag_above h, Option.map_none]
  · rw [loadedFlag_g2a] at h
    rw [decodeCanonical_g2a, readAffine_of_flag_above h, Option.map_none]

/-- Any other point is read by its coordinates and kept when it is on its curve (40_data_movement.md
R162). -/
theorem decodeCanonical_of_point (ht : t ∈ pointTypes) (h : Flagged t → loadedFlag s t off = 0) :
    decodeCanonical s t off =
      (readCoeffs (canonicalReader s) t off).bind (keepOnCurve s.params) := by
  simp only [pointTypes, List.mem_cons, List.not_mem_nil, or_false] at ht
  obtain rfl | rfl | rfl | rfl | rfl | rfl := ht
  · rw [decodeCanonical_g1a, readAffine_of_flag_zero (loadedFlag_g1a.symm.trans (h (.inl rfl)))]
    exact bind_keepOnCurve (fun _ => rfl) _ _
  · exact (congrArg (Option.map Value.g1p) readProj_eq).trans (bind_keepOnCurve (fun _ => rfl) _ _)
  · rw [decodeCanonical_g2a, readAffine_of_flag_zero (loadedFlag_g2a.symm.trans (h (.inr rfl)))]
    exact bind_keepOnCurve (fun _ => rfl) _ _
  · exact (congrArg (Option.map Value.g2p) readProj_eq).trans (bind_keepOnCurve (fun _ => rfl) _ _)
  · exact (congrArg (Option.map Value.eda) (readEdAffine_eq _ _)).trans
      (bind_keepOnCurve (fun _ => rfl) _ _)
  · exact (congrArg (Option.map Value.ede) (readEdExtended_eq _ _)).trans
      (bind_keepOnCurve (fun _ => rfl) _ _)

end

end Sys2Proof.Machine
end

section
/-!
The statements on data movement (40_data_movement.md R160 to R172), assembled from what each command commits
and from the layouts.
-/

namespace Sys2Proof.Machine

open Config

/-! ### Loads -/

/-- Settles O12: a BOOL word decides by `readBool`, a field value loads by its layout
(`CoeffReader.Codes.readCoeffs`). -/
theorem loadIsCanonicalDecode : Obligations.LoadIsCanonicalDecode := by
  intro s d off
  refine ⟨fun hr => ⟨fun b hb => ?_, fun hb => ?_⟩, fun ty hty hP hr => ?_⟩
  · exact puts_of_ld hr (by decide) (decodeCanonical_of_bit hb)
  · exact givesDecfail_of_ld hr (by decide) (decodeCanonical_of_no_bit hb)
  · have hload := (canonicalReader_codes (paramLaws_of_ok hP)).readCoeffs (List.mem_append_left _ hty)
    refine ⟨fun hlt => ?_, fun hge => ?_⟩
    · obtain ⟨x, hx, hval, hco⟩ := hload.below hlt
      obtain ⟨u, hu, hputs⟩ :=
        puts_of_ld (d := d) hr (mem_allTypes_of_field hty) ((decodeCanonical_of_field hty).trans hx)
      exact ⟨u, x, hu, hputs, hval.tag, hval.ok, (coeffs_eq_intsOf _ _).trans hco⟩
    · exact givesDecfail_of_ld hr (mem_allTypes_of_field hty)
        ((decodeCanonical_of_field hty).trans (hload.above hge))

/-- Settles O13: the flag word first, then the coordinates by the layout, then `keepOnCurve`. -/
theorem loadPointChecksFlagRangeAndCurve : Obligations.LoadPointChecksFlagRangeAndCurve := by
  intro s ty d off hP hty hr flagged flag
  have hall := mem_allTypes_of_point hty
  have hload := (canonicalReader_codes (paramLaws_of_ok hP)).readCoeffs (List.mem_append_right _ hty)
  refine ⟨fun hf hone => ?_, fun hf htwo => ?_, fun hzero => ⟨fun hge => ?_, fun hlt => ?_⟩⟩
  · obtain ⟨x, hx, hconst⟩ := decodeCanonical_of_flag_one hf hone
    obtain ⟨u, hu, hputs⟩ := puts_of_ld (d := d) hr hall hx
    exact ⟨u, x, hu, hputs, hconst⟩
  · exact givesDecfail_of_ld hr hall (decodeCanonical_of_flag_above hf htwo)
  · refine givesDecfail_of_ld hr hall ?_
    rw [decodeCanonical_of_point hty hzero, hload.above hge, Option.bind_none]
  · obtain ⟨x, hx, hval, hco⟩ := hload.below hlt
    have hdec : decodeCanonical s ty off.toNat = keepOnCurve s.params x := by
      rw [decodeCanonical_of_point hty hzero, hx, Option.bind_some]
    exact ⟨x, hval.tag, hval.ok, hval.flag, (coeffs_eq_intsOf _ _).trans hco,
      fun hon => puts_of_ld hr hall (hdec.trans (keepOnCurve_eq hon)),
      fun hoff => givesDecfail_of_ld hr hall (hdec.trans (keepOnCurve_eq hoff))⟩

/-! ### Stores -/

/-- Settles O14: a store puts the integers and the flag of the value at their places (`StoresValue`). -/
theorem storeWritesCanonicalLayout : Obligations.StoreWritesCanonicalLayout := by
  intro s ty d off _ hty hr htag _
  obtain ⟨u, hu, hst⟩ := storesValue_of_st hr hty htag
  subst htag
  exact ⟨u, hu, hst.stores, hst.coeffs.trans (coeffs_eq_intsOf _ _).symm, hst.flag⟩

theorem flagOf_eq_of_not_set {x y : Value} (htag : tagOf x = tagOf y) (hx : flagOf x ≠ some true)
    (hy : flagOf y ≠ some true) : flagOf x = flagOf y := by
  cases x <;> cases y <;> cases htag <;> simp_all [flagOf]

theorem exists_flag_of_flagged {x : Value} (h : Flagged (tagOf x)) : ∃ b, flagOf x = some b := by
  obtain h | h := h
  · obtain ⟨p, rfl⟩ := tagOf_eq_g1a.1 h
    exact ⟨p.inf, rfl⟩
  · obtain ⟨p, rfl⟩ := tagOf_eq_g2a.1 h
    exact ⟨p.inf, rfl⟩

theorem identityA_of_flag_set {K : Type} [DecidableEq K] {F : FieldOps K} {ok : K → Bool} {b b3 : K}
    {p : AffinePoint K} (hp : affineOk F ok p = true) (hinf : p.inf = true) :
    (weierstrassOps F b b3).identityA = p := by
  obtain ⟨-, -, hid⟩ := affineOk_iff.1 hp
  exact affinePoint_ext_iff.2 ⟨(hid hinf).1.symm, (hid hinf).2.symm, hinf.symm⟩

/-- The one flagged point of a type is its identity (10_state.md R35). -/
theorem constValue_of_flag_set {P : ParamStore} {x : Value} (hx : valueOk P x = true)
    (hpoint : tagOf x ∈ pointTypes) (hflag : flagOf x = some true) :
    Flagged (tagOf x) ∧ constValue P (tagOf x) 0 = .ok x := by
  cases x with
  | g1a p =>
    exact ⟨.inl rfl,
      congrArg (fun q => Except.ok (Value.g1a q)) (identityA_of_flag_set hx (Option.some.inj hflag))⟩
  | g2a p =>
    exact ⟨.inr rfl,
      congrArg (fun q => Except.ok (Value.g2a q)) (identityA_of_flag_set hx (Option.some.inj hflag))⟩
  | bool => exact absurd hpoint (by simp [tagOf, pointTypes])
  | _ => cases hflag

theorem pointOnCurve_eq_true {P : ParamStore} {x : Value} (hpoint : tagOf x ∈ pointTypes)
    (h : pointOnCurve P x ≠ .ok false) : pointOnCurve P x = .ok true := by
  obtain ⟨b, hb⟩ := pointOnCurve_ok P hpoint
  cases b with
  | false => exact absurd hb h
  | true => exact hb

section

variable {s u : State} {off : Nat} {x : Value} (hP : paramsOk s.params = true)
  (hst : StoresValue off (valOf s.params.fr) (valOf s.params.fq) x s u) (hx : valueOk s.params x = true)

include hP hst hx

/-- The coefficients of a stored value read back as that value. -/
theorem StoresValue.readCoeffs (ht : tagOf x ∈ fieldTypes ++ pointTypes) (hflag : flagOf x ≠ some true) :
    readCoeffs (canonicalReader u) (tagOf x) off = some x := by
  obtain ⟨⟨hretires, -⟩, hcoeffs, -⟩ := hst
  have hL := paramLaws_of_ok hP
  rw [← hretires.params] at hcoeffs hL hx
  rw [← coeffs_eq_intsOf] at hcoeffs
  have hlt : ∀ v ∈ loadedCoeffs u (tagOf x) off, v < modulusOf u.params (tagOf x) :=
    hcoeffs ▸ coeffs_lt_modulus hL x
  obtain ⟨y, hy, hval, hco⟩ := ((canonicalReader_codes hL).readCoeffs ht).below hlt
  rw [hy, value_ext hL hval.ok hx hval.tag (flagOf_eq_of_not_set hval.tag hval.flag hflag)
    ((coeffs_eq_intsOf _ _).trans (hco.trans hcoeffs))]

/-- A stored value decodes to itself (40_data_movement.md R162, R163). -/
theorem StoresValue.decodeCanonical (ht : tagOf x ∈ allTypes) (hcurve : pointOnCurve s.params x ≠ .ok false) :
    decodeCanonical u (tagOf x) off = some x := by
  have hparams : u.params = s.params := hst.stores.1.params
  obtain htag | hmem := List.mem_cons.1 ht
  · obtain ⟨b, rfl⟩ := tagOf_eq_bool.1 htag
    exact decodeCanonical_of_bit (loadedFlag_bool.symm.trans (hst.flag b rfl))
  obtain hfield | hpoint := List.mem_append.1 hmem
  · have hflag : flagOf x ≠ some true := by
      obtain ⟨m, rfl⟩ | ⟨m, rfl⟩ | ⟨a, rfl⟩ | ⟨a, rfl⟩ | ⟨a, rfl⟩ := tagOf_mem_fieldTypes hfield <;> nofun
    rw [decodeCanonical_of_field hfield, hst.readCoeffs hP hx hmem hflag]
  · by_cases hflag : flagOf x = some true
    · obtain ⟨hflagged, hconst⟩ := constValue_of_flag_set hx hpoint hflag
      obtain ⟨y, hy, hid⟩ := decodeCanonical_of_flag_one hflagged (hst.flag true hflag)
      rw [hparams, hconst] at hid
      rw [hy, Except.ok.inj hid]
    · have hzero : Flagged (tagOf x) → loadedFlag u (tagOf x) off = 0 := fun hf => by
        obtain ⟨b, hb⟩ := exists_flag_of_flagged hf
        rw [hst.flag b hb]
        cases b with
        | false => rfl
        | true => exact absurd hb hflag
      rw [decodeCanonical_of_point hpoint hzero, hst.readCoeffs hP hx hmem hflag, Option.bind_some, hparams,
        keepOnCurve_eq (pointOnCurve_eq_true hpoint hcurve), if_pos rfl]

end

/-- Settles O15: what ST wrote decodes to the value itself (`StoresValue.decodeCanonical`). -/
theorem storeThenLoadReturnsValue : Obligations.StoreThenLoadReturnsValue := by
  intro s ty d e off hP hty hr htag hok hcurve
  obtain ⟨t, ht, hst⟩ := storesValue_of_st hr hty htag
  subst htag
  obtain ⟨u, hu, hputs⟩ := puts_of_ld (d := e) hr hty (hst.decodeCanonical hP hok hty hcurve)
  exact ⟨t, u, ht, hu, hputs⟩

/-! ### Raw loads and stores -/

/-- Settles O16: as O12 and O14, with the raw coding of the limbs. -/
theorem rawLoadAndStoreKeepLimbs : Obligations.RawLoadAndStoreKeepLimbs := by
  intro s ty d off _ hty hr
  have hload := (rawReader_codes s).readCoeffs (List.mem_append_left _ hty)
  refine ⟨fun hlt => ?_, fun hge => ?_, fun htag => ?_⟩
  · obtain ⟨x, hx, hval, hco⟩ := hload.below hlt
    obtain ⟨u, hu, hputs⟩ := puts_of_ldm (d := d) hr hty ((decodeRaw_of_field hty).trans hx)
    exact ⟨u, x, hu, hputs, hval.tag, (rawCoeffs_eq_intsOf (hval.tag ▸ hty)).trans hco⟩
  · exact givesDecfail_of_ldm hr hty ((decodeRaw_of_field hty).trans (hload.above hge))
  · obtain ⟨u, hu, hst⟩ := storesValue_of_stm hr hty htag
    subst htag
    exact ⟨u, hu, hst.stores, hst.coeffs.trans (rawCoeffs_eq_intsOf hty).symm⟩

/-! ### Copies and constants -/

/-- Settles O17: each command commits a put of the chosen register's value. -/
theorem movAndSelCopyAValue : Obligations.MovAndSelCopyAValue := by
  intro s ty d a b c hty ha
  have hopa := operand_of_tag hty ha
  refine ⟨Commits.puts ⟨hty, hopa, rfl⟩, fun choice hb hc => ?_⟩
  have hopc : Operand s c [.bool] := operand_of_tag (by decide) (hc ▸ rfl)
  exact Commits.puts ⟨hty, hopa, operand_of_tag hty hb, hopc, choice, by rw [hc]; rfl, rfl⟩

theorem eq_zero_or_one_of_toNat_le_one {k : BitVec 10} (h : k.toNat ≤ 1) : k = 0 ∨ k = 1 := by
  bv_omega

theorem not_point_of_field {t : TCode} (h : t ∈ fieldTypes) : t ∉ pointTypes := by
  revert h
  cases t <;> decide

theorem constImmLegal_iff {t : TCode} {k : BitVec 10} :
    constImmLegal t k = true ↔ k.toNat ≤ 1 ∧ (t ∈ pointTypes → k.toNat ≠ 1) := by
  simp [constImmLegal, imp_iff_not_or]

theorem puts_of_const {s : State} {t : TCode} {d : Reg} {k : BitVec 10} {x : Value} (ht : t ∈ allTypes)
    (hk : constImmLegal t k = true) (hx : constValue s.params t k = .ok x) :
    ∃ u, exec (.const t d k) s = .next u ∧ Puts d x s u :=
  Commits.puts ⟨ht, hk, x, hx, rfl⟩

section

variable {P : ParamStore} (hP : ParamLaws P)

include hP

theorem coeffs2_zero2 : coeffs2 P zero2 = [0, 0] := by
  rw [coeffs2, zero2, valOf_zero hP.fq]

theorem coeffs2_one2 : coeffs2 P (one2 P) = [1, 0] := by
  rw [coeffs2, one2, valOf_one hP.fq, valOf_zero hP.fq]

theorem coeffs6_zero6 : coeffs6 P zero6 = List.replicate 6 0 := by
  rw [coeffs6, zero6, coeffs2_zero2 hP]; rfl

theorem coeffs6_one6 : coeffs6 P (one6 P) = 1 :: List.replicate 5 0 := by
  rw [coeffs6, one6, coeffs2_one2 hP, coeffs2_zero2 hP]; rfl

/-- The zero of a field has the canonical integers 0, its one a 1 and then zeros (40_data_movement.md
R171). -/
theorem coeffs_constValue_of_field {t : TCode} {k : BitVec 10} {x : Value} (ht : t ∈ fieldTypes)
    (hk : k.toNat ≤ 1) (hx : constValue P t k = .ok x) :
    coeffs P x = k.toNat :: List.replicate (coeffCount t - 1) 0 := by
  simp only [fieldTypes, List.mem_cons, List.not_mem_nil, or_false] at ht
  obtain rfl | rfl := eq_zero_or_one_of_toNat_le_one hk
  · obtain rfl | rfl | rfl | rfl | rfl := ht <;> cases hx
    · exact congrArg (fun v => [v]) (valOf_zero hP.fr)
    · exact congrArg (fun v => [v]) (valOf_zero hP.fq)
    · exact coeffs2_zero2 hP
    · exact coeffs6_zero6 hP
    · exact congrArg₂ List.append (coeffs6_zero6 hP) (coeffs6_zero6 hP)
  · obtain rfl | rfl | rfl | rfl | rfl := ht <;> cases hx
    · exact congrArg (fun v => [v]) (valOf_one hP.fr)
    · exact congrArg (fun v => [v]) (valOf_one hP.fq)
    · exact coeffs2_one2 hP
    · exact coeffs6_one6 hP
    · exact congrArg₂ List.append (coeffs6_one6 hP) (coeffs6_zero6 hP)

end

/-- Settles O18: CONST puts the zero, the one or the identity of its type, whose coefficients are the ones
named. -/
theorem constMakesZeroOneIdentity : Obligations.ConstMakesZeroOneIdentity := by
  intro s ty d k hP hk
  have hL := paramLaws_of_ok hP
  have hbit : (k == 1) = (k.toNat == 1) := by
    obtain rfl | rfl := eq_zero_or_one_of_toNat_le_one hk <;> rfl
  refine ⟨?_, fun hty => ?_, fun hty => ?_⟩
  · have himm : constImmLegal .bool k = true :=
      constImmLegal_iff.2 ⟨hk, fun h => absurd h (by simp [pointTypes])⟩
    exact puts_of_const (by decide) himm (by rw [← hbit]; rfl)
  · have hall := mem_allTypes_of_field hty
    have himm : constImmLegal ty k = true :=
      constImmLegal_iff.2 ⟨hk, fun h => absurd h (not_point_of_field hty)⟩
    obtain ⟨x, hx, htag⟩ := constValue_ok s.params k hall
    obtain ⟨u, hu, hputs⟩ := puts_of_const (d := d) hall himm hx
    exact ⟨u, x, hu, hputs, htag, (valueOk_kept hP).constValue hx, coeffs_constValue_of_field hL hty hk hx⟩
  · have hall := mem_allTypes_of_point hty
    obtain ⟨x, hx, htag⟩ := constValue_ok s.params 0 hall
    obtain ⟨u, hu, hputs⟩ := puts_of_const (d := d) hall (constImmLegal_iff.2 (by simp)) hx
    have hfr := fun e : Nat → Nat → List Nat => congrArg₂ e (valOf_zero hL.fr) (valOf_one hL.fr)
    have hfq := fun e : Nat → Nat → List Nat => congrArg₂ e (valOf_zero hL.fq) (valOf_one hL.fq)
    refine ⟨u, x, hu, hputs, htag, (valueOk_kept hP).constValue hx, ?_, ?_, ?_, ?_, ?_, ?_⟩ <;>
      rintro rfl <;> cases hx
    · exact ⟨rfl, hfq fun z o => [z, o]⟩
    · exact hfq fun z o => [z, o, z]
    · exact ⟨rfl, hfq fun z o => [z, z, o, z]⟩
    · exact hfq fun z o => [z, z, o, z, z, z]
    · exact hfr fun z o => [z, o]
    · exact hfr fun z o => [z, o, z, o]

/-! ### NOP -/

/-- OP 0 and the reserved bits of its format are the whole word, so of its words only 0 is a command
(30_encoding.md R122, R130). -/
theorem decode_of_op_zero {w : Command} (hop : opField w = 0) (hw : w ≠ 0) :
    decode w = .fault .reservedField := by
  refine (decode_decodesTo w).reservedField_iff.2 ⟨0x03FFFFFF, by rw [hop]; rfl, fun hmask => hw ?_⟩
  rw [show (0x03FFFFFF : Command) = packWord 0 (.allOnes 4) (.allOnes 4) (.allOnes 4) (.allOnes 4)
    (.allOnes 10) from rfl, and_packWord_eq_zero_iff] at hmask
  simp only [BitVec.and_allOnes] at hmask
  exact word_eq_zero_iff.2 ⟨hop, hmask.2⟩

/-- Settles O11: every other word with OP 0 is refused (`decode_of_op_zero`), and NOP only retires. -/
theorem nopCountsAndNothingElse : Obligations.NopCountsAndNothingElse := by
  refine ⟨fun w hop => ⟨?_, fun s rest hw hs hslot => ?_⟩, fun s => ?_⟩
  · split
    next hw => subst hw; decide
    next hw => exact decode_of_op_zero hop hw
  · exact step_of_refused_word hs hslot (decode_of_op_zero hop hw)
  · exact ⟨retire s, rfl,
      ⟨rfl, rfl, rfl, rfl, rfl, rfl, rfl, rfl, rfl, rfl, rfl, rfl, rfl, rfl, rfl, rfl⟩,
      fun _ => rfl, fun _ => rfl, rfl, rfl⟩

end Sys2Proof.Machine
end

section
/-!
The kernel of the base fields: Montgomery form and canonical value are inverse to each other, the reduction
and the product are exact, and a valid addition chain computes the invert engine's power
(41_field_kernel.md R201, R207 to R212).
-/

namespace Sys2Proof.Machine

open Config

section

variable {w : Nat} {F : BaseField w}

/-! ### Montgomery form and canonical value -/

/-- The Montgomery form of v is v·R_F modulo P_F (41_field_kernel.md R201). -/
theorem toNat_montOf (hF : BaseFieldLaws F) {v : Nat} (hv : v < F.p.toNat) :
    (montOf F v).toNat = v * 2 ^ w % F.p.toNat := by
  have hres : ((v * 2 ^ w : Nat) : ZMod F.p.toNat) = (montOf F v).toNat := by
    rw [← residue_mul_two_pow hF, residue_montOf hF hv, Nat.cast_mul, Nat.cast_pow, Nat.cast_ofNat]
  rw [(ZMod.natCast_eq_natCast_iff' _ _ _).1 hres,
    Nat.mod_eq_of_lt (canonical_iff.1 (montOf_canonical hF hv))]

theorem valOf_inj (hF : BaseFieldLaws F) {a b : BitVec w} (ha : canonical F a = true)
    (hb : canonical F b = true) : valOf F a = valOf F b ↔ a = b :=
  ⟨fun h => by rw [← montOf_valOf hF ha, h, montOf_valOf hF hb], congrArg _⟩

/-- Settles O19: the two are inverse to each other by `valOf_montOf` and `montOf_valOf`, so the formula of
`mont_F` gives the formula of `val_F`. -/
theorem montgomeryFormIsABijection : Obligations.MontgomeryFormIsABijection := by
  intro w F hw hok
  have hF := baseFieldLaws_of_ok hw hok
  refine ⟨fun v hv => ⟨montOf_canonical hF hv, toNat_montOf hF hv, valOf_montOf hF hv⟩,
    fun m hm => ⟨valOf_lt hF m, ?_, montOf_valOf hF hm⟩, fun a b => valOf_inj hF⟩
  rw [← toNat_montOf hF (valOf_lt hF m), montOf_valOf hF hm]

/-! ### The product -/

/-- The canonical value is any integer of the element's residue, reduced. -/
theorem valOf_eq_mod (hF : BaseFieldLaws F) {m : BitVec w} {v : Nat} (h : residue F m = v) :
    valOf F m = v % F.p.toNat :=
  valOf_eq_of_residue hF (Nat.mod_lt _ (by have := hF.three_le; omega)) (by rw [h, ZMod.natCast_mod])

/-- Canonical values multiply (41_field_kernel.md R207). -/
theorem valOf_montMul (hF : BaseFieldLaws F) {a : BitVec w} (b : BitVec w) (ha : canonical F a = true) :
    valOf F (montMul F a b) = valOf F a * valOf F b % F.p.toNat :=
  valOf_eq_mod hF (by rw [residue_montMul hF b ha, Nat.cast_mul, natCast_valOf hF, natCast_valOf hF])

theorem montOf_one (hF : BaseFieldLaws F) : montOf F 1 = F.one := by
  rw [← valOf_one hF, montOf_valOf hF (one_canonical hF)]

/-- Settles O20: the reduction loop is exact by `montReduce_spec`, and a product of canonical elements is in
its range (`product_lt`). -/
theorem montgomeryProductIsExact : Obligations.MontgomeryProductIsExact := by
  intro w F hw hok
  have hF := baseFieldLaws_of_ok hw hok
  refine ⟨montOf_one hF, fun t ht => ⟨montReduce_canonical hF ht, (montReduce_spec hF ht).2⟩,
    fun a b ha _ => ⟨montMul_canonical hF b ha, (montReduce_spec hF (product_lt ha)).2,
      valOf_montMul hF b ha, ?_⟩⟩
  rw [fsqr, valOf_montMul hF a ha, sq]

/-! ### Addition chains -/

/-- Related lists hold related elements at every place. -/
theorem exists_getElem?_of_forall₂ {α β : Type} {R : α → β → Prop} {xs : List α} {ys : List β}
    (h : List.Forall₂ R xs ys) {i : Nat} {y : β} (hy : ys[i]? = some y) :
    ∃ x, xs[i]? = some x ∧ R x y := by
  obtain ⟨hi, rfl⟩ := List.getElem?_eq_some_iff.1 hy
  have hi' : i < xs.length := h.length_eq ▸ hi
  exact ⟨xs[i], List.getElem?_eq_getElem hi', h.get hi' hi⟩

/-- One chain run with two products that keep a relation between the elements: where the one run ends, the
other ends in a related element (41_field_kernel.md R212). -/
theorem chainLoop_related {α β : Type} {f : α → α → α} {g : β → β → β} {R : α → β → Prop}
    (hR : ∀ {x x' y y'}, R x y → R x' y' → R (f x x') (g y y')) {chain : List (Nat × Nat)} {j : Nat}
    {xs : List α} {ys : List β} {z : β} (hxs : List.Forall₂ R xs ys)
    (h : chainLoop g chain j ys = some z) : ∃ x, chainLoop f chain j xs = some x ∧ R x z := by
  induction chain generalizing j xs ys with
  | nil =>
    rw [chainLoop, List.head?_eq_getElem?] at h ⊢
    exact exists_getElem?_of_forall₂ hxs h
  | cons entry rest ih =>
    simp only [chainLoop] at h ⊢
    split at h
    next hst =>
      split at h
      next y y' hy hy' =>
        obtain ⟨x, hx, hxy⟩ := exists_getElem?_of_forall₂ hxs hy
        obtain ⟨x', hx', hxy'⟩ := exists_getElem?_of_forall₂ hxs hy'
        rw [if_pos hst, hx, hx']
        exact ih (.cons (hR hxy hxy') hxs) h
      next => cases h
    next => cases h

/-- The raw integer `x` is the canonical power a^e of the base field. -/
def IsPower (F : BaseField w) (a x : BitVec w) (e : Nat) : Prop :=
  canonical F x = true ∧ residue F x = residue F a ^ e

theorem IsPower.montMul {a x x' : BitVec w} {e e' : Nat} (hF : BaseFieldLaws F) (h : IsPower F a x e)
    (h' : IsPower F a x' e') : IsPower F a (montMul F x x') (e + e') :=
  ⟨montMul_canonical hF x' h.1, by rw [residue_montMul hF x' h.1, h.2, h'.2, pow_add]⟩

theorem IsPower.unique {a x x' : BitVec w} {e : Nat} (hF : BaseFieldLaws F) (h : IsPower F a x e)
    (h' : IsPower F a x' e) : x = x' :=
  residue_inj hF h.1 h'.1 (h.2.trans h'.2.symm)

/-- The chain's last exponent, P_F - 2, is the power its last element is (41_field_kernel.md R212). -/
theorem runChain_isPower (hF : BaseFieldLaws F) {a : BitVec w} (ha : canonical F a = true) :
    ∃ x, runChain F a = some x ∧ IsPower F a x (F.p.toNat - 2) :=
  chainLoop_related (R := IsPower F a) (.montMul hF) (.cons ⟨ha, (pow_one _).symm⟩ .nil)
    (beq_iff_eq.1 hF.chain)

theorem fpow_isPower (hF : BaseFieldLaws F) (a : BitVec w) {fuel e : Nat} (he : e < 2 ^ fuel) :
    IsPower F a (fpow F a fuel e) e :=
  ⟨(fpow_spec hF a fuel e).1, (fpow_spec hF a fuel e).2 he⟩

/-- Settles O21: the run of the chain on field elements follows its run on exponents
(`chainLoop_related`), and the invert engine's power has the same exponent. -/
theorem validChainComputesTheInversePower : Obligations.ValidChainComputesTheInversePower := by
  intro w F hw hok a ha
  have hF := baseFieldLaws_of_ok hw hok
  obtain ⟨x, hrun, hx⟩ := runChain_isPower hF ha
  have hlt : F.p.toNat - 2 < 2 ^ w := (Nat.sub_le _ _).trans_lt F.p.isLt
  refine ⟨x, hrun, hx.1, valOf_eq_mod hF ?_, fun h0 => ?_⟩
  · rw [hx.2, Nat.cast_pow, natCast_valOf hF]
  · rw [finv, if_neg h0, (fpow_isPower hF a hlt).unique hF hx]

end

end Sys2Proof.Machine
end

section
/-!
The cubic extension of a commutative ring, the ring FQ6 is over FQ2 (42_extension_tower.md R246): the elements
of L[X]/(X³ - ξ) by their three coefficients, with the formulas of their sums and products.
-/

namespace Sys2Proof.Machine

section

open Polynomial

/-- The ring L with a cube root of ξ. -/
abbrev CubicRing {L : Type} [CommRing L] (ξ : L) : Type := AdjoinRoot (X ^ 3 - C ξ : L[X])

variable {L : Type} [CommRing L] {ξ : L}

/-- The cube root of ξ. -/
noncomputable def cubicRoot (ξ : L) : CubicRing ξ := AdjoinRoot.root _

/-- The element of the three coefficients (`cubicOf_eq`). -/
noncomputable def cubicOf (ξ x y z : L) : CubicRing ξ := AdjoinRoot.mk _ (Cubic.toPoly ⟨0, z, y, x⟩)

theorem cubicRoot_pow_three (ξ : L) : cubicRoot ξ ^ 3 = AdjoinRoot.of _ ξ := by
  have h := AdjoinRoot.eval₂_root (X ^ 3 - C ξ : L[X])
  rwa [eval₂_sub, eval₂_X_pow, eval₂_C, sub_eq_zero] at h

theorem cubicOf_eq (x y z : L) : cubicOf ξ x y z =
    AdjoinRoot.of _ x + AdjoinRoot.of _ y * cubicRoot ξ + AdjoinRoot.of _ z * cubicRoot ξ ^ 2 := by
  simp only [cubicOf, cubicRoot, Cubic.of_a_eq_zero', map_add, map_mul, map_pow, AdjoinRoot.mk_C,
    AdjoinRoot.mk_X]
  ring

theorem cubicOf_add (x y z x' y' z' : L) :
    cubicOf ξ x y z + cubicOf ξ x' y' z' = cubicOf ξ (x + x') (y + y') (z + z') := by
  simp only [cubicOf_eq, map_add]; ring

theorem cubicOf_neg (x y z : L) : -cubicOf ξ x y z = cubicOf ξ (-x) (-y) (-z) := by
  simp only [cubicOf_eq, map_neg]; ring

theorem cubicOf_sub (x y z x' y' z' : L) :
    cubicOf ξ x y z - cubicOf ξ x' y' z' = cubicOf ξ (x - x') (y - y') (z - z') := by
  simp only [cubicOf_eq, map_sub]; ring

/-- The product modulo X³ - ξ (42_extension_tower.md R247). -/
theorem cubicOf_mul (x y z x' y' z' : L) :
    cubicOf ξ x y z * cubicOf ξ x' y' z' =
      cubicOf ξ (x * x' + (y * z' + z * y') * ξ) (x * y' + y * x' + z * z' * ξ)
        (x * z' + y * y' + z * x') := by
  simp only [cubicOf_eq, map_add, map_mul, ← cubicRoot_pow_three]
  ring

/-- Multiplication by the cube root moves the coefficients up (42_extension_tower.md R248). -/
theorem cubicRoot_mul (x y z : L) : cubicRoot ξ * cubicOf ξ x y z = cubicOf ξ (z * ξ) x y := by
  simp only [cubicOf_eq, map_mul, ← cubicRoot_pow_three]
  ring

theorem cubicOf_zero : cubicOf ξ 0 0 0 = 0 := by simp [cubicOf_eq]

theorem cubicOf_one : cubicOf ξ 1 0 0 = 1 := by simp [cubicOf_eq]

/-- A polynomial of degree at most 2 is its own remainder. -/
theorem modByMonicHom_cubicOf [Nontrivial L] (hmonic : (X ^ 3 - C ξ : L[X]).Monic) (x y z : L) :
    AdjoinRoot.modByMonicHom hmonic (cubicOf ξ x y z) = Cubic.toPoly ⟨0, z, y, x⟩ := by
  rw [cubicOf, AdjoinRoot.modByMonicHom_mk, modByMonic_eq_self_iff hmonic, degree_X_pow_sub_C (by decide)]
  exact Cubic.degree_of_a_eq_zero'.trans_lt (by decide)

theorem cubicOf_injective [Nontrivial L] {x y z x' y' z' : L}
    (h : cubicOf ξ x y z = cubicOf ξ x' y' z') : x = x' ∧ y = y' ∧ z = z' := by
  have hpoly := congrArg (AdjoinRoot.modByMonicHom (monic_X_pow_sub_C ξ three_ne_zero)) h
  rw [modByMonicHom_cubicOf, modByMonicHom_cubicOf, Cubic.toPoly_injective, Cubic.mk.injEq] at hpoly
  obtain ⟨-, hz, hy, hx⟩ := hpoly
  exact ⟨hx, hy, hz⟩

/-- Every element is the class of its remainder modulo X³ - ξ. -/
theorem exists_cubicOf_eq [Nontrivial L] (r : CubicRing ξ) : ∃ x y z, cubicOf ξ x y z = r := by
  have hmonic : (X ^ 3 - C ξ : L[X]).Monic := monic_X_pow_sub_C ξ three_ne_zero
  obtain ⟨f, rfl⟩ := AdjoinRoot.mk_surjective r
  obtain ⟨q, hq⟩ : ∃ q, q = f %ₘ (X ^ 3 - C ξ) := ⟨_, rfl⟩
  have hdeg : q.degree < 3 :=
    hq ▸ (degree_modByMonic_lt f hmonic).trans_eq (degree_X_pow_sub_C (by decide) ξ)
  refine ⟨q.coeff 0, q.coeff 1, q.coeff 2, ?_⟩
  rw [cubicOf, Cubic.of_a_eq_zero', ← eq_quadratic_of_degree_le_two (Order.le_of_lt_succ hdeg), hq,
    ← AdjoinRoot.modByMonicHom_mk hmonic]
  exact AdjoinRoot.mk_leftInverse hmonic _

end

end Sys2Proof.Machine
end

section
/-!
FQ6 and FQ12 read as the rings of 42_extension_tower.md R246 and R249, as FR, FQ and FQ2 do, and what reads as
a commutative ring satisfies its axioms (41_field_kernel.md R216).
-/

namespace Sys2Proof.Machine

open Config

/-- What reads as a commutative ring satisfies the ring axioms: every element they speak of is written by
an element of the ring, where the law is the ring's own. -/
theorem FieldOps.Reads.ringLaws {K L : Type} [CommRing L] {F : FieldOps K} {ok : K → Prop} {φ : K → L}
    (h : F.Reads ok φ) : RingLaws F ok := by
  obtain ⟨σ, -, hσ⟩ := h.exists_encodes
  obtain rfl : ok = fun a => ∃ x, σ x = a := funext fun a => propext (hσ.ok_iff a)
  exact
    { zero_ok := h.keeps.zero
      one_ok := h.keeps.one
      add_ok := h.keeps.add
      neg_ok := h.keeps.neg
      mul_ok := h.keeps.mul
      add_assoc := by rintro _ _ _ ⟨x, rfl⟩ ⟨y, rfl⟩ ⟨z, rfl⟩; simp only [hσ.add, add_assoc]
      add_comm := by rintro _ _ ⟨x, rfl⟩ ⟨y, rfl⟩; simp only [hσ.add, add_comm]
      add_zero := by rintro _ ⟨x, rfl⟩; rw [hσ.zero, hσ.add, add_zero]
      add_neg := by rintro _ ⟨x, rfl⟩; rw [hσ.neg, hσ.add, add_neg_cancel, hσ.zero]
      mul_assoc := by rintro _ _ _ ⟨x, rfl⟩ ⟨y, rfl⟩ ⟨z, rfl⟩; simp only [hσ.mul, mul_assoc]
      mul_comm := by rintro _ _ ⟨x, rfl⟩ ⟨y, rfl⟩; simp only [hσ.mul, mul_comm]
      mul_one := by rintro _ ⟨x, rfl⟩; rw [hσ.one, hσ.mul, mul_one]
      mul_add := by rintro _ _ _ ⟨x, rfl⟩ ⟨y, rfl⟩ ⟨z, rfl⟩; simp only [hσ.add, hσ.mul, mul_add]
      sub_eq := by rintro _ _ ⟨x, rfl⟩ ⟨y, rfl⟩; rw [hσ.sub, hσ.neg, hσ.add, sub_eq_add_neg]
      dbl_eq := by rintro _ ⟨x, rfl⟩; rw [hσ.dbl, hσ.add]
      sqr_eq := by rintro _ ⟨x, rfl⟩; rw [hσ.sqr, hσ.mul]
      eq_iff := h.eq_iff
      isZero_iff := h.isZero_iff
      isOne_iff := h.isOne_iff }

/-- FQ6 as a ring: the ring of FQ2 with a cube root of XI (42_extension_tower.md R246). -/
abbrev Fq6Ring (P : ParamStore) : Type := CubicRing (residue2 P P.xi)

/-- The element of the ring an FQ6 element stands for. -/
noncomputable def residue6 (P : ParamStore) (a : Fq6) : Fq6Ring P :=
  cubicOf _ (residue2 P a.c0) (residue2 P a.c1) (residue2 P a.c2)

/-- FQ12 as a ring: the ring of FQ6 with a square root of v (42_extension_tower.md R249). -/
abbrev Fq12Ring (P : ParamStore) : Type := QuadraticAlgebra (Fq6Ring P) (cubicRoot (residue2 P P.xi)) 0

/-- The element of the ring an FQ12 element stands for. -/
noncomputable def residue12 (P : ParamStore) (a : Fq12) : Fq12Ring P :=
  ⟨residue6 P a.c0, residue6 P a.c1⟩

section

variable {P : ParamStore} (hP : ParamLaws P)

include hP

/-! ### FQ6 -/

theorem nontrivial_fq2Ring : Nontrivial (Fq2Ring P) := by
  have : Fact (1 < P.fq.p.toNat) := ⟨by have := hP.fq.three_le; omega⟩
  infer_instance

theorem residue2_add2 (a b : Fq2) : residue2 P (add2 P a b) = residue2 P a + residue2 P b :=
  QuadraticAlgebra.ext (residue_fadd hP.fq _ _) (residue_fadd hP.fq _ _)

theorem residue2_sub2 (a b : Fq2) : residue2 P (sub2 P a b) = residue2 P a - residue2 P b :=
  QuadraticAlgebra.ext (residue_fsub hP.fq _ _) (residue_fsub hP.fq _ _)

theorem residue6_zero : residue6 P zero6 = 0 := by
  have hzero : residue2 P zero2 = 0 := (fq2Ops_reads hP).zero
  simp only [residue6, zero6, hzero, cubicOf_zero]

theorem residue6_one : residue6 P (one6 P) = 1 := by
  have hzero : residue2 P zero2 = 0 := (fq2Ops_reads hP).zero
  have hone : residue2 P (one2 P) = 1 := (fq2Ops_reads hP).one
  simp only [residue6, one6, hzero, hone, cubicOf_one]

theorem residue6_add6 (a b : Fq6) : residue6 P (add6 P a b) = residue6 P a + residue6 P b := by
  simp only [residue6, add6, residue2_add2 hP, cubicOf_add]

theorem residue6_sub6 (a b : Fq6) : residue6 P (sub6 P a b) = residue6 P a - residue6 P b := by
  simp only [residue6, sub6, residue2_sub2 hP, cubicOf_sub]

theorem residue6_neg6 {a : Fq6} (ha : canonical6 P a = true) : residue6 P (neg6 P a) = -residue6 P a := by
  obtain ⟨h0, h1, h2⟩ := canonical6_iff.1 ha
  have hneg : ∀ {b}, canonical2 P b = true → residue2 P (neg2 P b) = -residue2 P b :=
    (fq2Ops_reads hP).neg _
  simp only [residue6, neg6, hneg h0, hneg h1, hneg h2, cubicOf_neg]

/-- The product formula is the product in the ring (42_extension_tower.md R247). -/
theorem residue6_mul6 {a : Fq6} (b : Fq6) (ha : canonical6 P a = true) :
    residue6 P (mul6 P a b) = residue6 P a * residue6 P b := by
  obtain ⟨h0, h1, h2⟩ := canonical6_iff.1 ha
  simp only [residue6, mul6, mulnr2, residue2_add2 hP, residue2_mul2 hP, h0, h1, h2, add2_canonical hP,
    mul2_canonical hP, cubicOf_mul]

/-- MULNR on FQ6 is the product by v (42_extension_tower.md R248). -/
theorem residue6_mulnr6 {a : Fq6} (ha : canonical6 P a = true) :
    residue6 P (mulnr6 P a) = cubicRoot _ * residue6 P a := by
  obtain ⟨-, -, h2⟩ := canonical6_iff.1 ha
  simp only [residue6, mulnr6, mulnr2, residue2_mul2 hP h2, cubicRoot_mul]

/-- An element is known by its three components' readings, since 1, v, v² are a basis of the ring. -/
theorem residue6_inj {a b : Fq6} (ha : canonical6 P a = true) (hb : canonical6 P b = true)
    (h : residue6 P a = residue6 P b) : a = b := by
  have := nontrivial_fq2Ring hP
  obtain ⟨ha0, ha1, ha2⟩ := canonical6_iff.1 ha
  obtain ⟨hb0, hb1, hb2⟩ := canonical6_iff.1 hb
  obtain ⟨h0, h1, h2⟩ := cubicOf_injective h
  have hinj := (fq2Ops_reads hP).inj
  exact fq6_ext_iff.2 ⟨hinj _ _ ha0 hb0 h0, hinj _ _ ha1 hb1 h1, hinj _ _ ha2 hb2 h2⟩

theorem residue6_surj (r : Fq6Ring P) : ∃ a, canonical6 P a = true ∧ residue6 P a = r := by
  have := nontrivial_fq2Ring hP
  obtain ⟨x, y, z, rfl⟩ := exists_cubicOf_eq r
  obtain ⟨a0, h0, rfl⟩ := (fq2Ops_reads hP).surj x
  obtain ⟨a1, h1, rfl⟩ := (fq2Ops_reads hP).surj y
  obtain ⟨a2, h2, rfl⟩ := (fq2Ops_reads hP).surj z
  exact ⟨⟨a0, a1, a2⟩, canonical6_iff.2 ⟨h0, h1, h2⟩, rfl⟩

/-- The canonical elements of FQ6 with its functions are the ring (42_extension_tower.md R247, R254, R255). -/
theorem fq6Ops_reads : (fq6Ops P).Reads (fun a => canonical6 P a = true) (residue6 P) where
  keeps := fq6Ops_keeps hP
  inj _ _ := residue6_inj hP
  surj := residue6_surj hP
  zero := residue6_zero hP
  one := residue6_one hP
  add a b _ _ := residue6_add6 hP a b
  sub a b _ _ := residue6_sub6 hP a b
  dbl a _ := residue6_add6 hP a a
  neg _ := residue6_neg6 hP
  mul _ b ha _ := residue6_mul6 hP b ha
  sqr a ha := residue6_mul6 hP a ha
  eq_iff a b := by simp [fq6Ops]
  isZero_iff a := by simp [fq6Ops]
  isOne_iff a := by simp [fq6Ops]

/-! ### FQ12 -/

/-- The 3-multiplication formula is the product in the ring (42_extension_tower.md R250). -/
theorem residue12_mul12 {a : Fq12} (b : Fq12) (ha : canonical12 P a = true) :
    residue12 P (mul12 P a b) = residue12 P a * residue12 P b := by
  obtain ⟨h0, h1⟩ := canonical12_iff.1 ha
  ext
  · simp only [residue12, mul12, residue6_add6 hP, residue6_mulnr6 hP (mul6_canonical hP _ _),
      residue6_mul6 hP _ h0, residue6_mul6 hP _ h1, QuadraticAlgebra.re_mul]
    ring
  · simp only [residue12, mul12, residue6_add6 hP, residue6_sub6 hP, residue6_mul6 hP _ h0,
      residue6_mul6 hP _ h1, residue6_mul6 hP _ (add6_canonical hP _ _), QuadraticAlgebra.im_mul]
    ring

/-- The canonical elements of FQ12 with its functions are the ring (42_extension_tower.md R250, R254,
R255). -/
theorem fq12Ops_reads : (fq12Ops P).Reads (fun a => canonical12 P a = true) (residue12 P) where
  keeps := fq12Ops_keeps hP
  inj a b ha hb hab := by
    obtain ⟨ha0, ha1⟩ := canonical12_iff.1 ha
    obtain ⟨hb0, hb1⟩ := canonical12_iff.1 hb
    obtain ⟨h0, h1⟩ := QuadraticAlgebra.ext_iff.1 hab
    exact fq12_ext_iff.2 ⟨residue6_inj hP ha0 hb0 h0, residue6_inj hP ha1 hb1 h1⟩
  surj r := by
    obtain ⟨a0, h0, hr0⟩ := residue6_surj hP r.re
    obtain ⟨a1, h1, hr1⟩ := residue6_surj hP r.im
    exact ⟨⟨a0, a1⟩, canonical12_iff.2 ⟨h0, h1⟩, QuadraticAlgebra.ext hr0 hr1⟩
  zero := QuadraticAlgebra.ext (residue6_zero hP) (residue6_zero hP)
  one := QuadraticAlgebra.ext (residue6_one hP) (residue6_zero hP)
  add _ _ _ _ := QuadraticAlgebra.ext (residue6_add6 hP _ _) (residue6_add6 hP _ _)
  sub _ _ _ _ := QuadraticAlgebra.ext (residue6_sub6 hP _ _) (residue6_sub6 hP _ _)
  dbl _ _ := QuadraticAlgebra.ext (residue6_add6 hP _ _) (residue6_add6 hP _ _)
  neg _ ha := by
    obtain ⟨h0, h1⟩ := canonical12_iff.1 ha
    exact QuadraticAlgebra.ext (residue6_neg6 hP h0) (residue6_neg6 hP h1)
  mul _ b ha _ := residue12_mul12 hP b ha
  sqr a ha := residue12_mul12 hP a ha
  eq_iff a b := by simp [fq12Ops]
  isZero_iff a := by simp [fq12Ops]
  isOne_iff a := by simp [fq12Ops]

end

/-- Settles O22: each of the five fields reads as a commutative ring. -/
theorem fieldsAreCommutativeRings : Obligations.FieldsAreCommutativeRings := by
  intro P h
  have hP := paramLaws_of_ok h
  exact ⟨(baseOps_reads hP.fr).ringLaws, (baseOps_reads hP.fq).ringLaws, (fq2Ops_reads hP).ringLaws,
    (fq6Ops_reads hP).ringLaws, (fq12Ops_reads hP).ringLaws⟩

end Sys2Proof.Machine
end

section
/-!
The generators of the tower (42_extension_tower.md R240, R241, R246, R249): each reads as the root its level
adjoins, and an element of the level below reads as a constant, so that the equations of the generators and
the sums of components are those of the rings `Fq2Ring`, `Fq6Ring` and `Fq12Ring`.
-/

namespace Sys2Proof.Machine

open Config

/-! ### The quadratic levels -/

section

open QuadraticAlgebra

variable {L : Type} [CommRing L] {d : L}

/-- 1 and the square root are a basis. -/
theorem quadratic_eq_sum (z : QuadraticAlgebra L d 0) :
    z = QuadraticAlgebra.C z.re + QuadraticAlgebra.C z.im * omega := by
  rw [C_mul_eq_smul, C_eq_algebraMap]
  exact mk_eq_add_smul_omega z.re z.im

variable {K : Type} {F : FieldOps K} {ok : K → Prop} {φ : K → QuadraticAlgebra L d 0} {g : K}

/-- What reads as the adjoined root squares to what reads as the element it is a root of. -/
theorem FieldOps.Reads.generator_sq (h : F.Reads ok φ) (hg : ok g) (hroot : φ g = omega) {e : K} (he : ok e)
    (hconst : φ e = QuadraticAlgebra.C d) : F.mul g g = e := by
  refine h.inj _ _ (h.keeps.mul _ _ hg hg) he ?_
  rw [h.mul _ _ hg hg, hroot, omega_mul_omega_eq_mk, hconst]
  rfl

/-- An element is its first component plus its second times the generator. -/
theorem FieldOps.Reads.eq_sum_generator (h : F.Reads ok φ) (hg : ok g) (hroot : φ g = omega) {a a0 a1 : K}
    (ha : ok a) (h0 : ok a0) (h1 : ok a1) (hre : φ a0 = QuadraticAlgebra.C (φ a).re)
    (him : φ a1 = QuadraticAlgebra.C (φ a).im) : a = F.add a0 (F.mul a1 g) := by
  have hprod := h.keeps.mul _ _ h1 hg
  refine h.inj _ _ ha (h.keeps.add _ _ h0 hprod) ?_
  rw [h.add _ _ h0 hprod, h.mul _ _ h1 hg, hre, him, hroot, ← quadratic_eq_sum]

end

/-! ### The generators and the embeddings of the levels -/

/-- u, the square root of BETA (42_extension_tower.md R241). -/
def towerU (P : ParamStore) : Fq2 := ⟨0, P.fq.one⟩

/-- v, the cube root of XI (42_extension_tower.md R246). -/
def towerV (P : ParamStore) : Fq6 := ⟨zero2, one2 P, zero2⟩

/-- w, the square root of v (42_extension_tower.md R249). -/
def towerW (P : ParamStore) : Fq12 := ⟨zero6, one6 P⟩

/-- An FQ element as an element of FQ2. -/
def fq2OfFq (a : Fq) : Fq2 := ⟨a, 0⟩

/-- An FQ2 element as an element of FQ6. -/
def fq6OfFq2 (a : Fq2) : Fq6 := ⟨a, zero2, zero2⟩

/-- An FQ6 element as an element of FQ12. -/
def fq12OfFq6 (a : Fq6) : Fq12 := ⟨a, zero6⟩

section

variable {P : ParamStore} (hP : ParamLaws P)

include hP

/-! ### u -/

theorem towerU_canonical : canonical2 P (towerU P) = true :=
  canonical2_iff.2 ⟨zero_canonical hP.fq, one_canonical hP.fq⟩

theorem fq2OfFq_canonical {a : Fq} (ha : canonical P.fq a = true) : canonical2 P (fq2OfFq a) = true :=
  canonical2_iff.2 ⟨ha, zero_canonical hP.fq⟩

theorem residue2_towerU : residue2 P (towerU P) = QuadraticAlgebra.omega :=
  QuadraticAlgebra.ext residue_zero (residue_one hP.fq)

omit hP in
theorem residue2_fq2OfFq (a : Fq) : residue2 P (fq2OfFq a) = QuadraticAlgebra.C (residue P.fq a) :=
  QuadraticAlgebra.ext rfl residue_zero

/-- u² = BETA (42_extension_tower.md R241). -/
theorem towerU_sq : mul2 P (towerU P) (towerU P) = fq2OfFq P.beta :=
  (fq2Ops_reads hP).generator_sq (towerU_canonical hP) (residue2_towerU hP) (fq2OfFq_canonical hP hP.beta)
    (residue2_fq2OfFq _)

theorem fq2_eq_sum {a : Fq2} (ha : canonical2 P a = true) :
    a = add2 P (fq2OfFq a.c0) (mul2 P (fq2OfFq a.c1) (towerU P)) := by
  obtain ⟨h0, h1⟩ := canonical2_iff.1 ha
  exact (fq2Ops_reads hP).eq_sum_generator (towerU_canonical hP) (residue2_towerU hP) ha
    (fq2OfFq_canonical hP h0) (fq2OfFq_canonical hP h1) (residue2_fq2OfFq _) (residue2_fq2OfFq _)

/-! ### v -/

theorem towerV_canonical : canonical6 P (towerV P) = true :=
  canonical6_iff.2 ⟨zero2_canonical hP, one2_canonical hP, zero2_canonical hP⟩

theorem fq6OfFq2_canonical {a : Fq2} (ha : canonical2 P a = true) : canonical6 P (fq6OfFq2 a) = true :=
  canonical6_iff.2 ⟨ha, zero2_canonical hP, zero2_canonical hP⟩

theorem residue6_towerV : residue6 P (towerV P) = cubicRoot (residue2 P P.xi) := by
  have hzero : residue2 P zero2 = 0 := (fq2Ops_reads hP).zero
  have hone : residue2 P (one2 P) = 1 := (fq2Ops_reads hP).one
  simp [residue6, towerV, hzero, hone, cubicOf_eq]

theorem residue6_fq6OfFq2 (a : Fq2) : residue6 P (fq6OfFq2 a) = AdjoinRoot.of _ (residue2 P a) := by
  have hzero : residue2 P zero2 = 0 := (fq2Ops_reads hP).zero
  simp [residue6, fq6OfFq2, hzero, cubicOf_eq]

/-- v³ = XI (42_extension_tower.md R246). -/
theorem towerV_cube : mul6 P (mul6 P (towerV P) (towerV P)) (towerV P) = fq6OfFq2 P.xi := by
  refine residue6_inj hP (mul6_canonical hP _ _) (fq6OfFq2_canonical hP hP.xi) ?_
  rw [residue6_mul6 hP _ (mul6_canonical hP _ _), residue6_mul6 hP _ (towerV_canonical hP),
    residue6_towerV hP, residue6_fq6OfFq2 hP, ← cubicRoot_pow_three]
  ring

theorem fq6_eq_sum {a : Fq6} (ha : canonical6 P a = true) :
    a = add6 P (add6 P (fq6OfFq2 a.c0) (mul6 P (fq6OfFq2 a.c1) (towerV P)))
      (mul6 P (fq6OfFq2 a.c2) (mul6 P (towerV P) (towerV P))) := by
  obtain ⟨-, h1, h2⟩ := canonical6_iff.1 ha
  refine residue6_inj hP ha (add6_canonical hP _ _) ?_
  rw [residue6_add6 hP, residue6_add6 hP, residue6_mul6 hP _ (fq6OfFq2_canonical hP h1),
    residue6_mul6 hP _ (fq6OfFq2_canonical hP h2), residue6_mul6 hP _ (towerV_canonical hP),
    residue6_towerV hP, residue6_fq6OfFq2 hP, residue6_fq6OfFq2 hP, residue6_fq6OfFq2 hP, ← sq]
  exact cubicOf_eq _ _ _

/-! ### w -/

theorem towerW_canonical : canonical12 P (towerW P) = true :=
  canonical12_iff.2 ⟨zero6_canonical hP, one6_canonical hP⟩

theorem fq12OfFq6_canonical {a : Fq6} (ha : canonical6 P a = true) : canonical12 P (fq12OfFq6 a) = true :=
  canonical12_iff.2 ⟨ha, zero6_canonical hP⟩

theorem residue12_towerW : residue12 P (towerW P) = QuadraticAlgebra.omega :=
  QuadraticAlgebra.ext (residue6_zero hP) (residue6_one hP)

theorem residue12_fq12OfFq6 (a : Fq6) : residue12 P (fq12OfFq6 a) = QuadraticAlgebra.C (residue6 P a) :=
  QuadraticAlgebra.ext rfl (residue6_zero hP)

/-- w² = v (42_extension_tower.md R249). -/
theorem towerW_sq : mul12 P (towerW P) (towerW P) = fq12OfFq6 (towerV P) :=
  (fq12Ops_reads hP).generator_sq (towerW_canonical hP) (residue12_towerW hP)
    (fq12OfFq6_canonical hP (towerV_canonical hP)) (by rw [residue12_fq12OfFq6 hP, residue6_towerV hP])

theorem fq12_eq_sum {a : Fq12} (ha : canonical12 P a = true) :
    a = add12 P (fq12OfFq6 a.c0) (mul12 P (fq12OfFq6 a.c1) (towerW P)) := by
  obtain ⟨h0, h1⟩ := canonical12_iff.1 ha
  exact (fq12Ops_reads hP).eq_sum_generator (towerW_canonical hP) (residue12_towerW hP) ha
    (fq12OfFq6_canonical hP h0) (fq12OfFq6_canonical hP h1) (residue12_fq12OfFq6 hP _)
    (residue12_fq12OfFq6 hP _)

end

/-- Settles O23: the equations and the sums of the three levels. -/
theorem towerGeneratorsSatisfyTheirEquations : Obligations.TowerGeneratorsSatisfyTheirEquations := by
  intro P h
  have hP := paramLaws_of_ok h
  exact ⟨towerU_sq hP, towerV_cube hP, towerW_sq hP, fun _ => fq2_eq_sum hP, fun _ => fq6_eq_sum hP,
    fun _ => fq12_eq_sum hP⟩

end Sys2Proof.Machine
end

section
/-!
The tower over a field is a tower of fields (42_extension_tower.md R240, R248, R250): the norm of a cubic
extension by a non-cube vanishes at 0 only, and its generator is no square where the adjoined cube is none.
-/

namespace Sys2Proof.Machine

section

open Polynomial

variable {L : Type} [CommRing L] {ξ : L}

/-- The norm of `cubicOf ξ x y z` to L (42_extension_tower.md R248). -/
def cubicNorm (ξ x y z : L) : L :=
  x * (x * x - y * z * ξ) + (z * (z * z * ξ - x * y) + y * (y * y - x * z)) * ξ

theorem of_eq_cubicOf (r : L) : AdjoinRoot.of (X ^ 3 - C ξ : L[X]) r = cubicOf ξ r 0 0 := by
  simp [cubicOf_eq]

/-- An element times its adjoint is its norm (42_extension_tower.md R248). -/
theorem cubicOf_mul_adjoint (x y z : L) :
    cubicOf ξ x y z * cubicOf ξ (x * x - y * z * ξ) (z * z * ξ - x * y) (y * y - x * z) =
      AdjoinRoot.of _ (cubicNorm ξ x y z) := by
  rw [of_eq_cubicOf, cubicOf_mul, cubicNorm]
  congr 1 <;> ring

theorem cubicNorm_mul (x y z x' y' z' : L) :
    cubicNorm ξ (x * x' + (y * z' + z * y') * ξ) (x * y' + y * x' + z * z' * ξ)
      (x * z' + y * y' + z * x') = cubicNorm ξ x y z * cubicNorm ξ x' y' z' := by
  simp only [cubicNorm]; ring

theorem cubicRoot_eq (ξ : L) : cubicRoot ξ = cubicOf ξ 0 1 0 := by simp [cubicOf_eq]

/-- The cube root of ξ is no square unless ξ, its norm, is one. -/
theorem cubicRoot_not_square [Nontrivial L] (hξ : ∀ r : L, r * r ≠ ξ) (r : CubicRing ξ) :
    r * r ≠ cubicRoot ξ := by
  obtain ⟨x, y, z, rfl⟩ := exists_cubicOf_eq r
  intro h
  rw [cubicOf_mul, cubicRoot_eq] at h
  obtain ⟨h0, h1, h2⟩ := cubicOf_injective h
  refine hξ (cubicNorm ξ x y z) ?_
  rw [← cubicNorm_mul, h0, h1, h2, cubicNorm]
  ring

end

section

open Polynomial

variable {L : Type} [Field L] {ξ : L}

/-- A cubic extension of a field by a non-cube is a field. -/
theorem irreducible_of_not_cube (hξ : ∀ r : L, r * r * r ≠ ξ) : Irreducible (X ^ 3 - C ξ : L[X]) :=
  X_pow_sub_C_irreducible_of_prime Nat.prime_three fun r hr => hξ r (by rw [← hr]; ring)

/-- The norm vanishes at 0 only: where it does, the adjoint of the element is 0, and then ξ is a cube. -/
theorem cubicNorm_ne_zero (hξ : ∀ r : L, r * r * r ≠ ξ) {x y z : L} (h : cubicOf ξ x y z ≠ 0) :
    cubicNorm ξ x y z ≠ 0 := by
  intro hnorm
  have hirr : Fact (Irreducible (X ^ 3 - C ξ : L[X])) := ⟨irreducible_of_not_cube hξ⟩
  have hadj := cubicOf_mul_adjoint (ξ := ξ) x y z
  rw [hnorm, map_zero] at hadj
  obtain ⟨h0, h1, h2⟩ := cubicOf_injective (((mul_eq_zero.1 hadj).resolve_left h).trans cubicOf_zero.symm)
  have hz : z = 0 := by
    by_contra hz
    refine hξ (y / z) ?_
    field_simp
    linear_combination y * h2 - z * h1
  have hy : y = 0 := mul_self_eq_zero.1 (by rw [hz] at h2; linear_combination h2)
  have hx : x = 0 := mul_self_eq_zero.1 (by rw [hz] at h0; linear_combination h0)
  exact h (by rw [hx, hy, hz, cubicOf_zero])

end

end Sys2Proof.Machine
end

section
/-!
The inverse formulas of the tower in their parts, and what the parts read as: the norm to the level below and
the adjoint or conjugate that multiplies to it (42_extension_tower.md R244, R248, R250).
-/

namespace Sys2Proof.Machine

open Config

/-! ### The inverse formulas in their parts -/

/-- An FQ6 element times an FQ2 element, by component. -/
def scale6 (P : ParamStore) (a : Fq6) (n : Fq2) : Fq6 := ⟨mul2 P a.c0 n, mul2 P a.c1 n, mul2 P a.c2 n⟩

/-- (t0, t1, t2) of 42_extension_tower.md R248. -/
def adjoint6 (P : ParamStore) (a : Fq6) : Fq6 :=
  ⟨sub2 P (sqr2 P a.c0) (mulnr2 P (mul2 P a.c1 a.c2)), sub2 P (mulnr2 P (sqr2 P a.c2)) (mul2 P a.c0 a.c1),
    sub2 P (sqr2 P a.c1) (mul2 P a.c0 a.c2)⟩

/-- The norm to FQ2 of 42_extension_tower.md R248. -/
def norm6 (P : ParamStore) (a : Fq6) : Fq2 :=
  add2 P (mul2 P a.c0 (adjoint6 P a).c0)
    (mulnr2 P (add2 P (mul2 P a.c2 (adjoint6 P a).c1) (mul2 P a.c1 (adjoint6 P a).c2)))

/-- The norm to FQ6 of 42_extension_tower.md R250. -/
def norm12 (P : ParamStore) (a : Fq12) : Fq6 := sub6 P (sqr6 P a.c0) (mulnr6 P (sqr6 P a.c1))

theorem inv6_eq (P : ParamStore) (a : Fq6) :
    inv6 P a = (inv2 P (norm6 P a)).map (scale6 P (adjoint6 P a)) := by
  unfold inv6
  change (match inv2 P (norm6 P a) with | none => none | some n => some (scale6 P (adjoint6 P a) n)) = _
  cases inv2 P (norm6 P a) <;> rfl

theorem inv12_eq (P : ParamStore) (a : Fq12) :
    inv12 P a = (inv6 P (norm12 P a)).map fun n => ⟨mul6 P a.c0 n, neg6 P (mul6 P a.c1 n)⟩ := by
  unfold inv12
  rw [← norm12]
  cases inv6 P (norm12 P a) <;> rfl

section

variable {P : ParamStore} (hP : ParamLaws P)

include hP

theorem scale6_canonical (a : Fq6) (n : Fq2) : canonical6 P (scale6 P a n) = true :=
  canonical6_iff.2 ⟨mul2_canonical hP _ _, mul2_canonical hP _ _, mul2_canonical hP _ _⟩

theorem adjoint6_canonical (a : Fq6) : canonical6 P (adjoint6 P a) = true :=
  canonical6_iff.2 ⟨sub2_canonical hP _ _, sub2_canonical hP _ _, sub2_canonical hP _ _⟩

theorem norm6_canonical (a : Fq6) : canonical2 P (norm6 P a) = true := add2_canonical hP _ _

theorem norm12_canonical (a : Fq12) : canonical6 P (norm12 P a) = true := sub6_canonical hP _ _

theorem residue6_scale6 {a : Fq6} (ha : canonical6 P a = true) (n : Fq2) :
    residue6 P (scale6 P a n) = residue6 P a * AdjoinRoot.of _ (residue2 P n) := by
  obtain ⟨h0, h1, h2⟩ := canonical6_iff.1 ha
  simp only [residue6, scale6, residue2_mul2 hP h0, residue2_mul2 hP h1, residue2_mul2 hP h2, of_eq_cubicOf,
    cubicOf_mul, mul_zero, zero_mul, add_zero, zero_add]

/-- The norm formula is the norm of the quadratic ring (42_extension_tower.md R244). -/
theorem residue_norm2 {a : Fq2} (ha : canonical2 P a = true) :
    residue P.fq (norm2 P a) = QuadraticAlgebra.norm (residue2 P a) := by
  obtain ⟨h0, h1⟩ := canonical2_iff.1 ha
  rw [norm2, fsqr, fsqr, residue_fsub hP.fq, residue_montMul hP.fq _ h0, residue_montMul hP.fq _ hP.beta,
    residue_montMul hP.fq _ h1, QuadraticAlgebra.norm_def, residue2]
  ring

/-- The norm formula is the norm of the cubic ring (42_extension_tower.md R248). -/
theorem residue2_norm6 {a : Fq6} (ha : canonical6 P a = true) : residue2 P (norm6 P a) =
    cubicNorm (residue2 P P.xi) (residue2 P a.c0) (residue2 P a.c1) (residue2 P a.c2) := by
  obtain ⟨h0, h1, h2⟩ := canonical6_iff.1 ha
  simp only [norm6, adjoint6, mulnr2, sqr2, residue2_add2 hP, residue2_sub2 hP, residue2_mul2 hP, h0, h1, h2,
    add2_canonical hP, mul2_canonical hP, cubicNorm]

/-- An element times its adjoint is its norm (42_extension_tower.md R248). -/
theorem residue6_mul_adjoint6 {a : Fq6} (ha : canonical6 P a = true) :
    residue6 P a * residue6 P (adjoint6 P a) = AdjoinRoot.of _ (residue2 P (norm6 P a)) := by
  obtain ⟨h0, h1, h2⟩ := canonical6_iff.1 ha
  rw [residue2_norm6 hP ha, ← cubicOf_mul_adjoint]
  simp only [residue6, adjoint6, mulnr2, sqr2, residue2_sub2 hP, residue2_mul2 hP, h0, h1, h2,
    mul2_canonical hP]

/-- The norm formula is the norm of the quadratic ring (42_extension_tower.md R250). -/
theorem residue6_norm12 {a : Fq12} (ha : canonical12 P a = true) :
    residue6 P (norm12 P a) = QuadraticAlgebra.norm (residue12 P a) := by
  obtain ⟨h0, h1⟩ := canonical12_iff.1 ha
  simp only [norm12, sqr6, residue6_sub6 hP, residue6_mulnr6 hP (mul6_canonical hP _ _),
    residue6_mul6 hP _ h0, residue6_mul6 hP _ h1, QuadraticAlgebra.norm_def, residue12]
  ring

/-- The inverse formula's numerator is the conjugate (42_extension_tower.md R250). -/
theorem residue12_star_mul {a : Fq12} (ha : canonical12 P a = true) (n : Fq6) :
    residue12 P ⟨mul6 P a.c0 n, neg6 P (mul6 P a.c1 n)⟩ =
      star (residue12 P a) * QuadraticAlgebra.C (residue6 P n) := by
  obtain ⟨h0, h1⟩ := canonical12_iff.1 ha
  ext
  · simp [residue12, residue6_mul6 hP _ h0]
  · simp [residue12, residue6_neg6 hP (mul6_canonical hP _ _), residue6_mul6 hP _ h1]

end

end Sys2Proof.Machine
end

section
/-!
INV: on a base field of prime modulus and on the tower of a conforming parameter set every element but 0 has
its inverse, and 0 gives None (43_field_instructions.md R287).
-/

namespace Sys2Proof.Machine

open Config

/-! ### The tower of a conforming parameter set -/

/-- The tower of a conforming parameter set: the field facts its three levels rest on (00_scope.md R6). -/
structure TowerField (P : ParamStore) : Prop where
  laws : ParamLaws P
  prime : Fact P.fq.p.toNat.Prime
  beta : Fact (∀ r : ZMod P.fq.p.toNat, r ^ 2 ≠ residue P.fq P.beta + 0 * r)
  xiSquare : ∀ r : Fq2Ring P, r * r ≠ residue2 P P.xi
  xiCube : ∀ r : Fq2Ring P, r * r * r ≠ residue2 P P.xi

theorem FieldOps.Reads.not_square {K L : Type} [CommRing L] {F : FieldOps K} {ok : K → Prop} {φ : K → L}
    (h : F.Reads ok φ) {x : K} (hx : ok x) (hns : NonSquare F ok x) (r : L) : r * r ≠ φ x := by
  obtain ⟨a, ha, rfl⟩ := h.surj r
  intro hr
  exact hns a ha (h.inj _ _ (h.keeps.mul _ _ ha ha) hx (by rw [h.mul _ _ ha ha, hr]))

theorem FieldOps.Reads.not_cube {K L : Type} [CommRing L] {F : FieldOps K} {ok : K → Prop} {φ : K → L}
    (h : F.Reads ok φ) {x : K} (hx : ok x) (hnc : NonCube F ok x) (r : L) : r * r * r ≠ φ x := by
  obtain ⟨a, ha, rfl⟩ := h.surj r
  have haa := h.keeps.mul _ _ ha ha
  intro hr
  exact hnc a ha (h.inj _ _ (h.keeps.mul _ _ haa ha) hx (by rw [h.mul _ _ haa ha, h.mul _ _ ha ha, hr]))

theorem towerField_of_conforming {P : ParamStore} (hc : Conforming P) : TowerField P := by
  have hP := paramLaws_of_ok hc.ok
  exact
    { laws := hP
      prime := ⟨hc.primeFq⟩
      beta := ⟨fun r hr => beta_not_square hP hc.residues.beta r (by linear_combination hr)⟩
      xiSquare := (fq2Ops_reads hP).not_square hP.xi hc.residues.xiSquare
      xiCube := (fq2Ops_reads hP).not_cube hP.xi hc.residues.xiCube }

theorem FieldOps.Reads.ne_zero {K L : Type} [CommRing L] {F : FieldOps K} {ok : K → Prop} {φ : K → L}
    (h : F.Reads ok φ) {a : K} (ha : ok a) (h0 : a ≠ F.zero) : φ a ≠ 0 :=
  fun hz => h0 (h.inj _ _ ha h.keeps.zero (hz.trans h.zero.symm))

section

variable {P : ParamStore} (hT : TowerField P)

include hT

theorem TowerField.beta_ne (r : ZMod P.fq.p.toNat) : r * r ≠ residue P.fq P.beta := fun hr =>
  hT.beta.out r (by rw [← hr]; ring)

/-- Every element of FQ6 but 0 has its inverse, through the norm (42_extension_tower.md R248). -/
theorem TowerField.inv6_spec {a : Fq6} (ha : canonical6 P a = true) (h0 : a ≠ zero6) :
    ∃ z, inv6 P a = some z ∧ canonical6 P z = true ∧ residue6 P a * residue6 P z = 1 := by
  have hP := hT.laws
  have hprime := hT.prime
  have hbeta := hT.beta
  have hnorm : norm6 P a ≠ zero2 := by
    intro hz
    refine cubicNorm_ne_zero hT.xiCube ((fq6Ops_reads hP).ne_zero ha h0) ?_
    rw [← residue2_norm6 hP ha, hz]
    exact (fq2Ops_reads hP).zero
  obtain ⟨n, hn, -, hone⟩ := inv2_spec hP hprime.out hT.beta_ne (norm6_canonical hP a) hnorm
  refine ⟨scale6 P (adjoint6 P a) n, by rw [inv6_eq, hn, Option.map_some], scale6_canonical hP _ _, ?_⟩
  rw [residue6_scale6 hP (adjoint6_canonical hP a), ← mul_assoc, residue6_mul_adjoint6 hP ha, ← map_mul]
  exact (congrArg _ hone).trans (map_one _)

/-- Every element of FQ12 but 0 has its inverse, through the norm (42_extension_tower.md R250). -/
theorem TowerField.inv12_spec {a : Fq12} (ha : canonical12 P a = true) (h0 : a ≠ zero12) :
    ∃ z, inv12 P a = some z ∧ canonical12 P z = true ∧ residue12 P a * residue12 P z = 1 := by
  have hP := hT.laws
  have hprime := hT.prime
  have hbeta := hT.beta
  have hirr : Fact (Irreducible _) := ⟨irreducible_of_not_cube hT.xiCube⟩
  have hv : Fact (∀ r : Fq6Ring P, r ^ 2 ≠ cubicRoot (residue2 P P.xi) + 0 * r) :=
    ⟨fun r hr => cubicRoot_not_square hT.xiSquare r (by linear_combination hr)⟩
  have hnorm : norm12 P a ≠ zero6 := by
    intro hz
    refine (fq12Ops_reads hP).ne_zero ha h0 (QuadraticAlgebra.norm_eq_zero_iff_eq_zero.1 ?_)
    rw [← residue6_norm12 hP ha, hz]
    exact (fq6Ops_reads hP).zero
  obtain ⟨n, hn, -, hone⟩ := hT.inv6_spec (norm12_canonical hP a) hnorm
  have hz : inv12 P a = some ⟨mul6 P a.c0 n, neg6 P (mul6 P a.c1 n)⟩ := by
    rw [inv12_eq, hn, Option.map_some]
  refine ⟨_, hz, inv12_canonical hP hz, ?_⟩
  rw [residue12_star_mul hP ha, ← mul_assoc, ← QuadraticAlgebra.algebraMap_norm_eq_mul_star,
    ← residue6_norm12 hP ha, ← QuadraticAlgebra.C_eq_algebraMap, ← QuadraticAlgebra.C_mul, hone,
    QuadraticAlgebra.C_one]

end

/-! ### The None result -/

theorem finv_zero {w : Nat} (F : BaseField w) : finv F 0 = none := if_pos rfl

section

variable {P : ParamStore} (hP : ParamLaws P)

include hP

/-- The None result of FQ2 is zero's (42_extension_tower.md R244). -/
theorem inv2_zero : inv2 P zero2 = none := by
  have hzero : residue2 P zero2 = 0 := (fq2Ops_reads hP).zero
  have hnorm : norm2 P zero2 = 0 := by
    refine residue_inj hP.fq (fsub_canonical hP.fq _ _) (zero_canonical hP.fq) ?_
    rw [residue_norm2 hP (zero2_canonical hP), hzero, QuadraticAlgebra.norm_zero, residue_zero]
  simp only [inv2, hnorm, finv_zero]

theorem inv6_zero : inv6 P zero6 = none := by
  have hzero : residue2 P zero2 = 0 := (fq2Ops_reads hP).zero
  have hnorm : norm6 P zero6 = zero2 := by
    refine (fq2Ops_reads hP).inj _ _ (add2_canonical hP _ _) (zero2_canonical hP) ?_
    rw [residue2_norm6 hP (zero6_canonical hP), zero6, hzero, cubicNorm]
    ring
  rw [inv6_eq, hnorm, inv2_zero hP, Option.map_none]

theorem inv12_zero : inv12 P zero12 = none := by
  have hok : canonical12 P zero12 = true := (fq12Ops_keeps hP).zero
  have hzero : residue12 P zero12 = 0 := (fq12Ops_reads hP).zero
  have hnorm : norm12 P zero12 = zero6 := by
    refine residue6_inj hP (sub6_canonical hP _ _) (zero6_canonical hP) ?_
    rw [residue6_norm12 hP hok, hzero, QuadraticAlgebra.norm_zero, residue6_zero hP]
  rw [inv12_eq, hnorm, inv6_zero hP, Option.map_none]

end

/-! ### INV -/

/-- A register holding a value of an admitted tag passes step 6 of 60_exceptions.md R425. -/
theorem operand_of_reg {s : State} {r : Reg} {x : Value} {t : TCode} {ts : List TCode} (ht : t ∈ ts)
    (hts : TCode.empty ∉ ts) (hx : s.reg r = x) (htag : tagOf x = t) : Operand s r [t] := by
  subst hx htag
  exact ⟨fun h => hts (h ▸ ht), List.mem_singleton_self _⟩

theorem Commits.givesNone {s : State} {i : Instr} {d : Reg} (h : Commits s i (.noneResult d)) :
    ∃ u, exec i s = .next u ∧ GivesNone d s u :=
  ⟨_, h.exec_eq, givesNone_of_noneResult d s⟩

/-- The inverse of a field's functions: none for zero, else the multiplicative inverse
(43_field_instructions.md R287). -/
structure FieldOps.Inverts {K : Type} (F : FieldOps K) (ok : K → Prop) : Prop where
  zero : F.inv F.zero = none
  of_ne_zero : ∀ a, ok a → a ≠ F.zero → ∃ z, F.inv a = some z ∧ ok z ∧ F.mul a z = F.one

/-- What multiplies to 1 where the functions read is the inverse. -/
theorem FieldOps.Reads.inverts {K L : Type} [CommRing L] {F : FieldOps K} {ok : K → Prop} {φ : K → L}
    (h : F.Reads ok φ) (hzero : F.inv F.zero = none)
    (hinv : ∀ a, ok a → a ≠ F.zero → ∃ z, F.inv a = some z ∧ ok z ∧ φ a * φ z = 1) : F.Inverts ok where
  zero := hzero
  of_ne_zero a ha h0 := by
    obtain ⟨z, hz, hzok, hone⟩ := hinv a ha h0
    refine ⟨z, hz, hzok, h.inj _ _ (h.keeps.mul _ _ ha hzok) h.keeps.one ?_⟩
    rw [h.mul _ _ ha hzok, hone, h.one]

theorem baseOps_inverts {w : Nat} {F : BaseField w} (hF : BaseFieldLaws F) (hp : F.p.toNat.Prime) :
    (baseOps F).Inverts fun a => canonical F a = true :=
  (baseOps_reads hF).inverts (finv_zero F) fun _ => finv_spec hF hp

section

variable {P : ParamStore} (hT : TowerField P)

include hT

theorem TowerField.fq2Ops_inverts : (fq2Ops P).Inverts fun a => canonical2 P a = true :=
  (fq2Ops_reads hT.laws).inverts (inv2_zero hT.laws) fun _ => inv2_spec hT.laws hT.prime.out hT.beta_ne

theorem TowerField.fq6Ops_inverts : (fq6Ops P).Inverts fun a => canonical6 P a = true :=
  (fq6Ops_reads hT.laws).inverts (inv6_zero hT.laws) fun _ => hT.inv6_spec

theorem TowerField.fq12Ops_inverts : (fq12Ops P).Inverts fun a => canonical12 P a = true :=
  (fq12Ops_reads hT.laws).inverts (inv12_zero hT.laws) fun _ => hT.inv12_spec

end

/-- INV on a register of a field whose inverse is one: None exactly for zero, else the inverse is put. -/
theorem FieldOps.Inverts.exec_inv {K : Type} {F : FieldOps K} {ok : K → Prop} (h : F.Inverts ok)
    {V : K → Value} {s : State} {t : TCode} {d a : Reg} {u : K} (ht : t ∈ fieldTypes) (hu : s.reg a = V u)
    (htag : tagOf (V u) = t) (hdisp : fieldInverse s.params (V u) = .ok ((F.inv u).map V)) (hok : ok u) :
    (u = F.zero → ∃ s', exec (.inv t d a) s = .next s' ∧ GivesNone d s s') ∧
      (u ≠ F.zero → ∃ s' x, exec (.inv t d a) s = .next s' ∧ Puts d (V x) s s' ∧ ok x ∧
        F.mul u x = F.one) := by
  have hop := operand_of_reg ht (by decide) hu htag
  rw [← hu] at hdisp
  refine ⟨fun h0 => ?_, fun h0 => ?_⟩
  · rw [h0, h.zero] at hdisp
    exact Commits.givesNone ⟨ht, hop, none, hdisp, rfl⟩
  · obtain ⟨z, hz, hzok, hone⟩ := h.of_ne_zero u hok h0
    rw [hz] at hdisp
    obtain ⟨s', hs', hputs⟩ := Commits.puts (i := .inv t d a) ⟨ht, hop, some (V z), hdisp, rfl⟩
    exact ⟨s', z, hs', hputs, hzok, hone⟩

/-- INV on a register of a base field, in canonical integers (41_field_kernel.md R211). -/
theorem exec_inv_of_base {w : Nat} {F : BaseField w} (hF : BaseFieldLaws F) (hp : F.p.toNat.Prime)
    {V : BitVec w → Value} {s : State} {t : TCode} {d a : Reg} {m : BitVec w} (ht : t ∈ fieldTypes)
    (hm : s.reg a = V m) (htag : tagOf (V m) = t)
    (hdisp : fieldInverse s.params (V m) = .ok ((finv F m).map V)) (hok : canonical F m = true) :
    (valOf F m = 0 → ∃ s', exec (.inv t d a) s = .next s' ∧ GivesNone d s s') ∧
      (valOf F m ≠ 0 → ∃ s' x, exec (.inv t d a) s = .next s' ∧ Puts d (V x) s s' ∧ canonical F x = true ∧
        valOf F m * valOf F x % F.p.toNat = 1) := by
  have hzero : valOf F m = 0 ↔ m = 0 := by
    rw [← valOf_inj hF hok (zero_canonical hF), valOf_zero hF]
  obtain ⟨hnone, hsome⟩ := (baseOps_inverts hF hp).exec_inv (d := d) ht hm htag hdisp hok
  refine ⟨fun h => hnone (hzero.1 h), fun h => ?_⟩
  obtain ⟨s', x, hs', hputs, hx, hone⟩ := hsome (mt hzero.2 h)
  refine ⟨s', x, hs', hputs, hx, ?_⟩
  rw [← valOf_montMul hF x hok, ← valOf_one hF]
  exact congrArg (valOf F) hone

/-- Settles O26: the power a^(P_F - 2) is the inverse modulo the prime (`finv_spec`). -/
theorem inverseInPrimeFields : Obligations.InverseInPrimeFields := by
  intro s ty d a u hparams hp hty htag hok hu
  have hP := paramLaws_of_ok hparams
  obtain rfl | rfl := hty
  · obtain ⟨m, hm⟩ := tagOf_eq_fr.1 htag
    rw [hm] at hok hu
    obtain rfl : valOf s.params.fr m = u := List.singleton_inj.1 hu
    obtain ⟨hnone, hsome⟩ := exec_inv_of_base (t := .fr) (d := d) hP.fr hp (by decide) hm rfl rfl hok
    refine ⟨hnone, fun h => ?_⟩
    obtain ⟨s', x, hs', hputs, hx, hone⟩ := hsome h
    exact ⟨s', .fr x, _, hs', hputs, rfl, hx, rfl, hone⟩
  · obtain ⟨m, hm⟩ := tagOf_eq_fq.1 htag
    rw [hm] at hok hu
    obtain rfl : valOf s.params.fq m = u := List.singleton_inj.1 hu
    obtain ⟨hnone, hsome⟩ := exec_inv_of_base (t := .fq) (d := d) hP.fq hp (by decide) hm rfl rfl hok
    refine ⟨hnone, fun h => ?_⟩
    obtain ⟨s', x, hs', hputs, hx, hone⟩ := hsome h
    exact ⟨s', .fq x, _, hs', hputs, rfl, hx, rfl, hone⟩

/-- Settles O27: each level's inverse goes through the norm to the level below. -/
theorem inverseInTowerFields : Obligations.InverseInTowerFields := by
  intro s d a hc hok
  have hT := towerField_of_conforming hc
  refine ⟨fun u hu => ?_, fun u hu => ?_, fun u hu => ?_⟩ <;> rw [hu] at hok
  · exact hT.fq2Ops_inverts.exec_inv (by decide) hu rfl rfl hok
  · exact hT.fq6Ops_inverts.exec_inv (by decide) hu rfl rfl hok
  · exact hT.fq12Ops_inverts.exec_inv (by decide) hu rfl rfl hok

end Sys2Proof.Machine
end

section
/-!
The Frobenius maps of the tower are powers (42_extension_tower.md R251 to R253). In a ring of characteristic p
the power p^i is additive, and it multiplies an adjoined root by a power of the element it is a root of, which
the tables hold; the powers p^i repeat with the degree of the level.
-/

namespace Sys2Proof.Machine

open Config

/-! ### Powers -/

/-- Powers of p repeat with a period that fixes every element (42_extension_tower.md R251). -/
theorem pow_pow_mod {L : Type} [Monoid L] {p n : Nat} (h : ∀ r : L, r ^ p ^ n = r) (r : L) (i : Nat) :
    r ^ p ^ (i % n) = r ^ p ^ i := by
  have hper : Function.IsPeriodicPt (fun r : L => r ^ p) n r := by
    rw [Function.IsPeriodicPt, Function.IsFixedPt, pow_iterate]
    exact h r
  simpa only [pow_iterate] using hper.iterate_mod_apply i

/-- A power of a root of degree k, the exponent being 1 modulo k. -/
theorem pow_of_root {L : Type} [CommMonoid L] {g e : L} {k q : Nat} (hg : g ^ k = e) (hq : 1 ≡ q [MOD k])
    (h1 : 1 ≤ q) : g ^ q = g * e ^ ((q - 1) / k) := by
  have hdvd : k ∣ q - 1 := (Nat.modEq_iff_dvd' h1).1 hq
  rw [← hg, ← pow_mul, Nat.mul_div_cancel' hdvd, ← pow_succ', Nat.sub_add_cancel h1]

/-- k·(x - 1) divides x^k - 1 when x is 1 modulo k: each of the k terms of the geometric sum is 1. -/
theorem mul_sub_one_dvd_pow_sub_one {k x : Nat} (hx : 1 ≡ x [MOD k]) (h1 : 1 ≤ x) :
    k * (x - 1) ∣ x ^ k - 1 := by
  have hsum : k ∣ ∑ i ∈ Finset.range k, x ^ i := by
    have hone : (x : ZMod k) = 1 := by simpa using ((ZMod.natCast_eq_natCast_iff _ _ _).2 hx).symm
    rw [← ZMod.natCast_eq_zero_iff]
    simp [hone]
  have hgeom : (∑ i ∈ Finset.range k, x ^ i) * (x - 1) = x ^ k - 1 := by
    obtain ⟨y, rfl⟩ := Nat.exists_eq_add_of_le' h1
    rw [← geom_sum_mul_add y k]
    rfl
  exact hgeom ▸ Nat.mul_dvd_mul_right hsum _

/-- An element that the power x fixes has trivial power (x^k - 1)/k. -/
theorem pow_div_eq_one {L : Type} [Field L] {e : L} (he : e ≠ 0) {k x : Nat}
    (hx : 1 ≡ x [MOD k]) (h1 : 1 ≤ x) (hfix : e ^ x = e) : e ^ ((x ^ k - 1) / k) = 1 := by
  have hone : e ^ (x - 1) = 1 :=
    mul_right_cancel₀ he (by rw [← pow_succ, Nat.sub_add_cancel h1, hfix, one_mul])
  obtain ⟨m, hm⟩ := Nat.dvd_div_of_mul_dvd (mul_sub_one_dvd_pow_sub_one hx h1)
  rw [hm, pow_mul, hone, one_pow]

/-! ### Powers of the characteristic on the adjoined roots -/

section

variable {p : Nat} [Fact p.Prime] {L : Type} [CommRing L] [CharP L p]

theorem quadratic_pow_char {d : L} (z : QuadraticAlgebra L d 0) {i : Nat} (hi : 1 ≡ p ^ i [MOD 2]) :
    z ^ p ^ i = ⟨z.re ^ p ^ i, z.im ^ p ^ i * d ^ ((p ^ i - 1) / 2)⟩ := by
  have hchar : CharP (QuadraticAlgebra L d 0) p :=
    charP_of_injective_algebraMap QuadraticAlgebra.algebraMap_injective p
  have hroot : (QuadraticAlgebra.omega : QuadraticAlgebra L d 0) ^ p ^ i =
      QuadraticAlgebra.omega * QuadraticAlgebra.C (d ^ ((p ^ i - 1) / 2)) := by
    rw [pow_of_root (e := QuadraticAlgebra.C d) ?_ hi (Nat.one_le_pow _ _ (Fact.out : p.Prime).pos),
      ← QuadraticAlgebra.C_pow]
    rw [sq, QuadraticAlgebra.omega_mul_omega_eq_mk]
    rfl
  conv_lhs => rw [quadratic_eq_sum z]
  rw [add_pow_char_pow, mul_pow, hroot, ← QuadraticAlgebra.C_pow, ← QuadraticAlgebra.C_pow,
    quadratic_eq_sum ⟨_, _ * _⟩, QuadraticAlgebra.C_mul]
  ring

omit [Fact p.Prime] in
theorem charP_cubicRing [Nontrivial L] (ξ : L) : CharP (CubicRing ξ) p := by
  refine charP_of_injective_ringHom (f := AdjoinRoot.of (Polynomial.X ^ 3 - Polynomial.C ξ))
    (fun x y h => ?_) p
  rw [of_eq_cubicOf, of_eq_cubicOf] at h
  exact (cubicOf_injective h).1

theorem cubicOf_pow_char [Nontrivial L] {ξ : L} (x y z : L) {i : Nat} (hi : 1 ≡ p ^ i [MOD 3]) :
    cubicOf ξ x y z ^ p ^ i = cubicOf ξ (x ^ p ^ i) (y ^ p ^ i * ξ ^ ((p ^ i - 1) / 3))
      (z ^ p ^ i * (ξ ^ ((p ^ i - 1) / 3)) ^ 2) := by
  have hchar : CharP (CubicRing ξ) p := charP_cubicRing ξ
  have hroot := pow_of_root (cubicRoot_pow_three ξ) hi (Nat.one_le_pow _ _ (Fact.out : p.Prime).pos)
  rw [cubicOf_eq, cubicOf_eq, add_pow_char_pow, add_pow_char_pow, mul_pow, mul_pow, pow_right_comm _ 2, hroot]
  simp only [map_mul, map_pow]
  ring

end

/-! ### The levels of the tower -/

/-- A power in a field's functions reads as the power (00_scope.md R12). -/
theorem FieldOps.Reads.powOf {K L : Type} [CommRing L] {F : FieldOps K} {ok : K → Prop} {φ : K → L}
    (h : F.Reads ok φ) {a : K} (ha : ok a) (e : Nat) : ok (powOf F a e) ∧ φ (powOf F a e) = φ a ^ e := by
  induction e with
  | zero => exact ⟨h.keeps.one, h.one.trans (pow_zero _).symm⟩
  | succ e ih =>
    obtain ⟨hok, hpow⟩ := ih
    exact ⟨h.keeps.mul _ _ hok ha, (h.mul _ _ hok ha).trans (by rw [hpow, pow_succ])⟩

theorem FieldOps.Reads.eq_powOf {K L : Type} [CommRing L] {F : FieldOps K} {ok : K → Prop} {φ : K → L}
    (h : F.Reads ok φ) {a b : K} (ha : ok a) (hb : ok b) {e : Nat} (hab : φ b = φ a ^ e) :
    b = Machine.powOf F a e :=
  h.inj _ _ hb (h.powOf ha e).1 (hab.trans (h.powOf ha e).2.symm)

theorem charP_fq2Ring (P : ParamStore) : CharP (Fq2Ring P) P.fq.p.toNat :=
  charP_of_injective_algebraMap QuadraticAlgebra.algebraMap_injective _

theorem residue2_conj2 {P : ParamStore} (hP : ParamLaws P) {a : Fq2} (ha : canonical2 P a = true) :
    residue2 P (conj2 P a) = star (residue2 P a) := by
  obtain ⟨-, h1⟩ := canonical2_iff.1 ha
  ext <;> simp [residue2, conj2, residue_fneg hP.fq h1]

theorem residue2_frob2_succ {P : ParamStore} (hP : ParamLaws P) {a : Fq2} (ha : canonical2 P a = true)
    (i : Nat) : residue2 P (frob2 P a (i + 1)) = star (residue2 P (frob2 P a i)) := by
  obtain h | h := Nat.mod_two_eq_zero_or_one i
  · rw [frob2, frob2, if_neg (by omega), if_pos h, residue2_conj2 hP ha]
  · rw [frob2, frob2, if_pos (by omega), if_neg (by omega), residue2_conj2 hP ha, star_star]

section

variable {P : ParamStore} (hT : TowerField P)

include hT

/-- P_FQ and its powers are 1 modulo 6, and so modulo 2 and 3 (00_scope.md R6). -/
theorem TowerField.one_modEq_pow (i : Nat) : 1 ≡ P.fq.p.toNat ^ i [MOD 6] := by
  have h : 1 ≡ P.fq.p.toNat [MOD 6] := hT.laws.mod_six.symm
  simpa using h.pow i

/-- The power P_FQ on FQ2 is the conjugation: BETA is no square (42_extension_tower.md R253). -/
theorem TowerField.pow_prime2 (z : Fq2Ring P) : z ^ P.fq.p.toNat = star z := by
  have hprime := hT.prime
  have hbeta : residue P.fq P.beta ^ (P.fq.p.toNat / 2) = -1 := by
    have h0 : residue P.fq P.beta ≠ 0 := fun h => hT.beta_ne 0 (by rw [h, mul_zero])
    refine (ZMod.pow_div_two_eq_neg_one_or_one _ h0).resolve_left fun h => ?_
    obtain ⟨r, hr⟩ := (ZMod.euler_criterion _ h0).2 h
    exact hT.beta_ne r hr.symm
  have hhalf : (P.fq.p.toNat - 1) / 2 = P.fq.p.toNat / 2 := by have := hT.laws.fq.odd; omega
  have hpow := quadratic_pow_char z (i := 1) ((hT.one_modEq_pow 1).of_dvd (by decide))
  rw [pow_one, ZMod.pow_card, ZMod.pow_card, hhalf, hbeta] at hpow
  rw [hpow]
  ext <;> simp

/-- The Frobenius map of FQ2 is the power map (42_extension_tower.md R251, R253). -/
theorem TowerField.residue2_frob2 {a : Fq2} (ha : canonical2 P a = true) (i : Nat) :
    residue2 P (frob2 P a i) = residue2 P a ^ P.fq.p.toNat ^ i := by
  induction i with
  | zero => simp [frob2]
  | succ i ih => rw [residue2_frob2_succ hT.laws ha, ih, ← hT.pow_prime2, ← pow_mul, ← pow_succ]

theorem TowerField.period2 (z : Fq2Ring P) : z ^ P.fq.p.toNat ^ 2 = z := by
  rw [sq, pow_mul, hT.pow_prime2, hT.pow_prime2, star_star]

/-- The power P_FQ^(2k) multiplies a root of degree k of XI by 1, for k dividing 6. -/
theorem TowerField.xi_pow_period {k : Nat} (hk : k ∣ 6) :
    residue2 P P.xi ^ ((P.fq.p.toNat ^ (2 * k) - 1) / k) = 1 := by
  have hprime := hT.prime
  have hbeta := hT.beta
  rw [pow_mul]
  exact pow_div_eq_one (fun h => hT.xiSquare 0 (by rw [h, mul_zero])) ((hT.one_modEq_pow 2).of_dvd hk)
    (Nat.one_le_pow _ _ hprime.out.pos) (hT.period2 _)

/-- The period of the powers on FQ6 is 6 (42_extension_tower.md R251). -/
theorem TowerField.period6 (r : Fq6Ring P) : r ^ P.fq.p.toNat ^ 6 = r := by
  have hprime := hT.prime
  have hchar := charP_fq2Ring P
  have hnontrivial := nontrivial_fq2Ring hT.laws
  have hfix : ∀ z : Fq2Ring P, z ^ P.fq.p.toNat ^ 6 = z := fun z => by
    rw [← pow_pow_mod hT.period2 z 6, Nat.pow_zero, pow_one]
  obtain ⟨x, y, z, rfl⟩ := exists_cubicOf_eq r
  rw [cubicOf_pow_char x y z ((hT.one_modEq_pow 6).of_dvd (by decide)), hfix, hfix, hfix,
    hT.xi_pow_period (k := 3) (by decide), one_pow, mul_one, mul_one]

/-- The entries of FROB6_C1 (42_extension_tower.md R252). -/
theorem TowerField.residue2_frob6C1 (ht : FrobeniusTables P) {j : Nat} (hj : j < 6) :
    residue2 P P.frob6C1[j] = residue2 P P.xi ^ ((P.fq.p.toNat ^ j - 1) / 3) := by
  rw [← ((fq2Ops_reads hT.laws).powOf hT.laws.xi _).2]
  exact congrArg _ (ht.c61 ⟨j, hj⟩)

/-- The entries of FROB6_C2 are the squares of those of FROB6_C1 (42_extension_tower.md R252). -/
theorem TowerField.residue2_frob6C2 (ht : FrobeniusTables P) {j : Nat} (hj : j < 6) :
    residue2 P P.frob6C2[j] = (residue2 P P.xi ^ ((P.fq.p.toNat ^ j - 1) / 3)) ^ 2 := by
  have hdouble : (2 * P.fq.p.toNat ^ j - 2) / 3 = (P.fq.p.toNat ^ j - 1) / 3 * 2 := by
    obtain ⟨m, hm⟩ := (Nat.modEq_iff_dvd' (Nat.one_le_pow _ _ hT.prime.out.pos)).1
      ((hT.one_modEq_pow j).of_dvd (by decide : 3 ∣ 6))
    omega
  rw [← pow_mul, ← hdouble, ← ((fq2Ops_reads hT.laws).powOf hT.laws.xi _).2]
  exact congrArg _ (ht.c62 ⟨j, hj⟩)

/-- The entries of FROB12_C1 (42_extension_tower.md R252). -/
theorem TowerField.residue2_frob12C1 (ht : FrobeniusTables P) {j : Nat} (hj : j < 12) :
    residue2 P P.frob12C1[j] = residue2 P P.xi ^ ((P.fq.p.toNat ^ j - 1) / 6) := by
  rw [← ((fq2Ops_reads hT.laws).powOf hT.laws.xi _).2]
  exact congrArg _ (ht.c121 ⟨j, hj⟩)

/-- The Frobenius map of FQ6 is the power map (42_extension_tower.md R251, R253). -/
theorem TowerField.residue6_frob6 (ht : FrobeniusTables P) {a : Fq6} (ha : canonical6 P a = true) (i : Nat) :
    residue6 P (frob6 P a i) = residue6 P a ^ P.fq.p.toNat ^ i := by
  have hP := hT.laws
  have hprime := hT.prime
  have hchar := charP_fq2Ring P
  have hnontrivial := nontrivial_fq2Ring hP
  obtain ⟨h0, h1, h2⟩ := canonical6_iff.1 ha
  have hj : i % 6 < 6 := Nat.mod_lt _ (by decide)
  rw [← pow_pow_mod hT.period6, residue6, residue6,
    cubicOf_pow_char _ _ _ ((hT.one_modEq_pow (i % 6)).of_dvd (by decide))]
  simp only [frob6, residue2_mul2 hP (frob2_canonical hP h1 _), residue2_mul2 hP (frob2_canonical hP h2 _),
    hT.residue2_frob2 h0, hT.residue2_frob2 h1, hT.residue2_frob2 h2, hT.residue2_frob6C1 ht hj,
    hT.residue2_frob6C2 ht hj]

/-- The power P_FQ^i on FQ12: w is a root of degree 6 of XI (42_extension_tower.md R252). -/
theorem TowerField.pow_prime12 (z : Fq12Ring P) (i : Nat) :
    z ^ P.fq.p.toNat ^ i = ⟨z.re ^ P.fq.p.toNat ^ i, z.im ^ P.fq.p.toNat ^ i *
      AdjoinRoot.of _ (residue2 P P.xi ^ ((P.fq.p.toNat ^ i - 1) / 6))⟩ := by
  have hprime := hT.prime
  have hchar := charP_fq2Ring P
  have hnontrivial := nontrivial_fq2Ring hT.laws
  have hchar6 : CharP (Fq6Ring P) P.fq.p.toNat := charP_cubicRing _
  have hroot : (P.fq.p.toNat ^ i - 1) / 2 = 3 * ((P.fq.p.toNat ^ i - 1) / 6) := by
    obtain ⟨m, hm⟩ := (Nat.modEq_iff_dvd' (Nat.one_le_pow _ _ hT.prime.out.pos)).1 (hT.one_modEq_pow i)
    omega
  rw [quadratic_pow_char z ((hT.one_modEq_pow i).of_dvd (by decide)), hroot, pow_mul, cubicRoot_pow_three,
    map_pow]

/-- The period of the powers on FQ12 is 12 (42_extension_tower.md R251). -/
theorem TowerField.period12 (z : Fq12Ring P) : z ^ P.fq.p.toNat ^ 12 = z := by
  have hfix : ∀ r : Fq6Ring P, r ^ P.fq.p.toNat ^ 12 = r := fun r => by
    rw [← pow_pow_mod hT.period6 r 12, Nat.pow_zero, pow_one]
  rw [hT.pow_prime12, hfix, hfix, hT.xi_pow_period (k := 6) (by decide), map_one, mul_one]

/-- The Frobenius map of FQ12 is the power map (42_extension_tower.md R251, R253). -/
theorem TowerField.residue12_frob12 (ht : FrobeniusTables P) {a : Fq12} (ha : canonical12 P a = true)
    (i : Nat) : residue12 P (frob12 P a i) = residue12 P a ^ P.fq.p.toNat ^ i := by
  obtain ⟨h0, h1⟩ := canonical12_iff.1 ha
  have hj : i % 12 < 12 := Nat.mod_lt _ (by decide)
  have hscale : (frob12 P a i).c1 = scale6 P (frob6 P a.c1 (i % 12)) P.frob12C1[i % 12] := rfl
  rw [← pow_pow_mod hT.period12, hT.pow_prime12]
  refine QuadraticAlgebra.ext (hT.residue6_frob6 ht h0 _) ?_
  rw [residue12, hscale, residue6_scale6 hT.laws (frob6_canonical hT.laws h1 _), hT.residue6_frob6 ht h1,
    hT.residue2_frob12C1 ht hj]
  rfl

end

/-- FROB puts the value its level's map gives (43_field_instructions.md R294). -/
theorem puts_of_frob {s : State} {t : TCode} {d a : Reg} {i : BitVec 10} {x y : Value}
    (ht : t ∈ [TCode.fq2, .fq6, .fq12]) (hi : i.toNat ≤ 11) (hx : s.reg a = x) (htag : tagOf x = t)
    (hy : frobenius s.params i.toNat x = .ok y) :
    ∃ u, exec (.frob t d a i) s = .next u ∧ Puts d y s u :=
  Commits.puts ⟨ht, decide_eq_true hi, operand_of_reg ht (by decide) hx htag, y, hx ▸ hy, rfl⟩

/-- Settles O31: each level's Frobenius map reads as the power P_FQ^i. -/
theorem frobeniusIsThePowerMap : Obligations.FrobeniusIsThePowerMap := by
  intro s d a i hc hi hok
  have hT := towerField_of_conforming hc
  have hP := hT.laws
  refine ⟨fun u hu => ?_, fun u hu => ?_, fun u hu => ?_⟩ <;> rw [hu] at hok
  · rw [← (fq2Ops_reads hP).eq_powOf hok (frob2_canonical hP hok _) (hT.residue2_frob2 hok _)]
    exact puts_of_frob (by decide) hi hu rfl rfl
  · rw [← (fq6Ops_reads hP).eq_powOf hok (frob6_canonical hP hok _) (hT.residue6_frob6 hc.tables hok _)]
    exact puts_of_frob (by decide) hi hu rfl rfl
  · rw [← (fq12Ops_reads hP).eq_powOf hok (frob12_canonical hP hok _) (hT.residue12_frob12 hc.tables hok _)]
    exact puts_of_frob (by decide) hi hu rfl rfl

end Sys2Proof.Machine
end

section
/-!
The commands that act on each canonical coefficient: ADD, SUB, DBL, NEG, CONJ and the tests
(43_field_instructions.md R281 to R284, R289 to R291, R293, 42_extension_tower.md R242, R247, R250, R254).
-/

namespace Sys2Proof.Machine

open Config

/-! ### The canonical integers of the base field's functions -/

section

variable {w : Nat} {F : BaseField w}

theorem valOf_fadd (hF : BaseFieldLaws F) (a b : BitVec w) :
    valOf F (fadd F a b) = (valOf F a + valOf F b) % F.p.toNat :=
  valOf_eq_mod hF (by rw [residue_fadd hF, Nat.cast_add, natCast_valOf hF, natCast_valOf hF])

theorem valOf_fdbl (hF : BaseFieldLaws F) (a : BitVec w) :
    valOf F (fdbl F a) = 2 * valOf F a % F.p.toNat := by
  rw [fdbl, valOf_fadd hF, two_mul]

theorem valOf_fsub (hF : BaseFieldLaws F) (a b : BitVec w) :
    valOf F (fsub F a b) = (valOf F a + F.p.toNat - valOf F b) % F.p.toNat := by
  have hle : valOf F b ≤ valOf F a + F.p.toNat := (valOf_lt hF b).le.trans (Nat.le_add_left _ _)
  refine valOf_eq_mod hF ?_
  rw [residue_fsub hF, Nat.cast_sub hle, Nat.cast_add, ZMod.natCast_self, add_zero, natCast_valOf hF,
    natCast_valOf hF]

theorem valOf_fneg (hF : BaseFieldLaws F) {a : BitVec w} (ha : canonical F a = true) :
    valOf F (fneg F a) = (F.p.toNat - valOf F a) % F.p.toNat := by
  refine valOf_eq_mod hF ?_
  rw [residue_fneg hF ha, Nat.cast_sub (valOf_lt hF a).le, ZMod.natCast_self, zero_sub, natCast_valOf hF]

end

/-! ### Functions that act on each coefficient -/

/-- A two-operand function that acts by component on the tower, and as `g`, given the modulus, on canonical
integers, acts as `g` on each coefficient (42_extension_tower.md R242, R247, R250). -/
structure ActsOnCoefficients₂ (P : ParamStore) (op : (K : Type) → FieldOps K → K → K → K)
    (g : Nat → Nat → Nat → Nat) : Prop where
  fr : ∀ a b, valOf P.fr (op Fr (frOps P) a b) = g P.fr.p.toNat (valOf P.fr a) (valOf P.fr b)
  fq : ∀ a b, valOf P.fq (op Fq (fqOps P) a b) = g P.fq.p.toNat (valOf P.fq a) (valOf P.fq b)
  fq2 : ∀ a b, op Fq2 (fq2Ops P) a b = ⟨op Fq (fqOps P) a.c0 b.c0, op Fq (fqOps P) a.c1 b.c1⟩
  fq6 : ∀ a b, op Fq6 (fq6Ops P) a b =
    ⟨op Fq2 (fq2Ops P) a.c0 b.c0, op Fq2 (fq2Ops P) a.c1 b.c1, op Fq2 (fq2Ops P) a.c2 b.c2⟩
  fq12 : ∀ a b, op Fq12 (fq12Ops P) a b = ⟨op Fq6 (fq6Ops P) a.c0 b.c0, op Fq6 (fq6Ops P) a.c1 b.c1⟩

/-- The same of a one-operand function, on canonical elements. -/
structure ActsOnCoefficients (P : ParamStore) (op : (K : Type) → FieldOps K → K → K)
    (g : Nat → Nat → Nat) : Prop where
  fr : ∀ a, canonical P.fr a = true → valOf P.fr (op Fr (frOps P) a) = g P.fr.p.toNat (valOf P.fr a)
  fq : ∀ a, canonical P.fq a = true → valOf P.fq (op Fq (fqOps P) a) = g P.fq.p.toNat (valOf P.fq a)
  fq2 : ∀ a, op Fq2 (fq2Ops P) a = ⟨op Fq (fqOps P) a.c0, op Fq (fqOps P) a.c1⟩
  fq6 : ∀ a, op Fq6 (fq6Ops P) a = ⟨op Fq2 (fq2Ops P) a.c0, op Fq2 (fq2Ops P) a.c1, op Fq2 (fq2Ops P) a.c2⟩
  fq12 : ∀ a, op Fq12 (fq12Ops P) a = ⟨op Fq6 (fq6Ops P) a.c0, op Fq6 (fq6Ops P) a.c1⟩

theorem ActsOnCoefficients₂.coeffs_eq {P : ParamStore} {op : (K : Type) → FieldOps K → K → K → K}
    {g : Nat → Nat → Nat → Nat} (h : ActsOnCoefficients₂ P op g) {x y z : Value}
    (hz : fieldBinary P op x y = .ok z) :
    coeffs P z = List.zipWith (g (modulusOf P (tagOf x))) (coeffs P x) (coeffs P y) := by
  -- one branch for each field type; its coefficients are the base field's
  unfold fieldBinary at hz
  split at hz <;> cases hz <;>
    simp [coeffs_eq_intsOf, intsOf, modulusOf, overFr, tagOf, h.fr, h.fq, h.fq2, h.fq6, h.fq12]

theorem ActsOnCoefficients.coeffs_eq {P : ParamStore} {op : (K : Type) → FieldOps K → K → K}
    {g : Nat → Nat → Nat} (h : ActsOnCoefficients P op g) {x z : Value} (hx : valueOk P x = true)
    (hz : fieldUnary P op x = .ok z) :
    coeffs P z = (coeffs P x).map (g (modulusOf P (tagOf x))) := by
  unfold fieldUnary at hz
  split at hz <;> cases hz <;>
    simp only [valueOk, canonical12_iff, canonical6_iff, canonical2_iff] at hx <;>
    simp [coeffs_eq_intsOf, intsOf, modulusOf, overFr, tagOf, h.fr, h.fq, h.fq2, h.fq6, h.fq12, hx]

section

variable {P : ParamStore} (hP : ParamLaws P)

include hP

theorem add_actsOnCoefficients : ActsOnCoefficients₂ P (fun _ F => F.add) fun p u v => (u + v) % p where
  fr := valOf_fadd hP.fr
  fq := valOf_fadd hP.fq
  fq2 _ _ := rfl
  fq6 _ _ := rfl
  fq12 _ _ := rfl

theorem sub_actsOnCoefficients : ActsOnCoefficients₂ P (fun _ F => F.sub) fun p u v => (u + p - v) % p where
  fr := valOf_fsub hP.fr
  fq := valOf_fsub hP.fq
  fq2 _ _ := rfl
  fq6 _ _ := rfl
  fq12 _ _ := rfl

theorem dbl_actsOnCoefficients : ActsOnCoefficients P (fun _ F => F.dbl) fun p u => 2 * u % p where
  fr a _ := valOf_fdbl hP.fr a
  fq a _ := valOf_fdbl hP.fq a
  fq2 _ := rfl
  fq6 _ := rfl
  fq12 _ := rfl

theorem neg_actsOnCoefficients : ActsOnCoefficients P (fun _ F => F.neg) fun p u => (p - u) % p where
  fr _ := valOf_fneg hP.fr
  fq _ := valOf_fneg hP.fq
  fq2 _ := rfl
  fq6 _ := rfl
  fq12 _ := rfl

end

/-- The command puts a canonical value of the type into V[d], with the given canonical integers. -/
def PutsCoeffs (i : Instr) (d : Reg) (ty : TCode) (cs : List Nat) (s : State) : Prop :=
  ∃ t x, exec i s = .next t ∧ Puts d x s t ∧ tagOf x = ty ∧ valueOk s.params x = true ∧ coeffs s.params x = cs

theorem Commits.putsCoeffs {i : Instr} {d : Reg} {ty : TCode} {cs : List Nat} {s : State} {x : Value}
    (h : Commits s i (.put d x)) (htag : tagOf x = ty) (hok : valueOk s.params x = true)
    (hcs : coeffs s.params x = cs) : PutsCoeffs i d ty cs s := by
  obtain ⟨t, ht, hputs⟩ := h.puts
  exact ⟨t, x, ht, hputs, htag, hok, hcs⟩

section

variable {s : State} {ty : TCode} {a b d : Reg} (hparams : paramsOk s.params = true) (hty : ty ∈ fieldTypes)
  (hta : tagOf (s.reg a) = ty) (hoka : valueOk s.params (s.reg a) = true)

include hparams hty hta hoka

/-- A command that commits a two-operand function acting on coefficients puts what the action gives. -/
theorem ActsOnCoefficients₂.putsCoeffs {op : (K : Type) → FieldOps K → K → K → K}
    {g : Nat → Nat → Nat → Nat} {i : Instr} (h : ActsOnCoefficients₂ s.params op g)
    (hkeeps : ∀ (K : Type) (F : FieldOps K) (ok : K → Prop), F.Keeps ok →
      ∀ a b, ok a → ok b → ok (op K F a b))
    (htb : tagOf (s.reg b) = ty) (hokb : valueOk s.params (s.reg b) = true)
    (hi : Operand s a [ty] → Operand s b [ty] →
      ∀ x, fieldBinary s.params op (s.reg a) (s.reg b) = .ok x → Commits s i (.put d x)) :
    PutsCoeffs i d ty (List.zipWith (g (modulusOf s.params ty)) (coeffs s.params (s.reg a))
      (coeffs s.params (s.reg b))) s := by
  have hall := mem_allTypes_of_field hty
  obtain ⟨x, hx, htag⟩ := fieldBinary_ok s.params op (hta ▸ hty) (htb.trans hta.symm)
  refine (hi (operand_of_tag hall hta) (operand_of_tag hall htb) x hx).putsCoeffs (htag.trans hta)
    ((valueOk_kept hparams).fieldBinary hkeeps hoka hokb hx) ?_
  rw [h.coeffs_eq hx, hta]

/-- The same of a one-operand function. -/
theorem ActsOnCoefficients.putsCoeffs {op : (K : Type) → FieldOps K → K → K} {g : Nat → Nat → Nat}
    {i : Instr} (h : ActsOnCoefficients s.params op g)
    (hkeeps : ∀ (K : Type) (F : FieldOps K) (ok : K → Prop), F.Keeps ok → ∀ a, ok a → ok (op K F a))
    (hi : Operand s a [ty] → ∀ x, fieldUnary s.params op (s.reg a) = .ok x → Commits s i (.put d x)) :
    PutsCoeffs i d ty ((coeffs s.params (s.reg a)).map (g (modulusOf s.params ty))) s := by
  obtain ⟨x, hx, htag⟩ := fieldUnary_ok s.params op (hta ▸ hty)
  refine (hi (operand_of_tag (mem_allTypes_of_field hty) hta) x hx).putsCoeffs (htag.trans hta)
    ((valueOk_kept hparams).fieldUnary hkeeps hoka hx) ?_
  rw [h.coeffs_eq hoka hx, hta]

end

/-- Settles O24: each of the four functions acts on coefficients. -/
theorem additiveCommandsActOnCoefficients : Obligations.AdditiveCommandsActOnCoefficients := by
  intro s ty d a b hparams hty hta htb hoka hokb p us vs
  have hP := paramLaws_of_ok hparams
  refine ⟨?_, ?_, ?_, ?_⟩
  · exact (add_actsOnCoefficients hP).putsCoeffs hparams hty hta hoka (fun _ _ _ h => h.add) htb hokb
      fun ha hb x hx => ⟨hty, ha, hb, x, hx, rfl⟩
  · exact (sub_actsOnCoefficients hP).putsCoeffs hparams hty hta hoka (fun _ _ _ h => h.sub) htb hokb
      fun ha hb x hx => ⟨hty, ha, hb, x, hx, rfl⟩
  · exact (dbl_actsOnCoefficients hP).putsCoeffs hparams hty hta hoka (fun _ _ _ h => h.dbl)
      fun ha x hx => ⟨hty, ha, x, hx, rfl⟩
  · exact (neg_actsOnCoefficients hP).putsCoeffs hparams hty hta hoka (fun _ _ _ h => h.neg)
      fun ha x hx => ⟨hty, ha, x, hx, rfl⟩

/-! ### CONJ and MULNR -/

/-- Conjugation keeps the lower half of the coefficients and negates the upper half (42_extension_tower.md
R244, R250). -/
theorem coeffs_conjugate {P : ParamStore} (hP : ParamLaws P) {x y : Value} (hx : valueOk P x = true)
    (hy : conjugate P x = .ok y) : tagOf y = tagOf x ∧ coeffs P y =
      (coeffs P x).take (coeffCount (tagOf x) / 2) ++ ((coeffs P x).drop (coeffCount (tagOf x) / 2)).map
        fun u => (modulusOf P (tagOf x) - u) % modulusOf P (tagOf x) := by
  unfold conjugate at hy
  split at hy <;> cases hy <;> refine ⟨rfl, ?_⟩
  next a =>
    obtain ⟨-, h1⟩ := canonical2_iff.1 hx
    simp [coeffs_eq_intsOf, intsOf, conj2, coeffCount, tagOf, modulusOf, overFr, valOf_fneg hP.fq, h1]
  next a =>
    obtain ⟨-, h1⟩ := canonical12_iff.1 hx
    simp only [canonical6_iff, canonical2_iff] at h1
    simp [coeffs_eq_intsOf, intsOf, conj12, neg6, neg2, coeffCount, tagOf, modulusOf, overFr,
      valOf_fneg hP.fq, h1]

/-- MULNR on FQ6 is the product by v (42_extension_tower.md R248). -/
theorem mulnr6_eq_mul6 {P : ParamStore} (hP : ParamLaws P) {a : Fq6} (ha : canonical6 P a = true) :
    mulnr6 P a = mul6 P a (towerV P) := by
  refine residue6_inj hP (mulnr6_canonical hP ha) (mul6_canonical hP _ _) ?_
  rw [residue6_mulnr6 hP ha, residue6_mul6 hP _ ha, residue6_towerV hP, mul_comm]

theorem puts_of_mulnr {s : State} {t : TCode} {d a : Reg} {x y : Value} (ht : t ∈ [TCode.fq2, .fq6])
    (hx : s.reg a = x) (htag : tagOf x = t) (hy : mulNonResidue s.params x = .ok y) :
    ∃ u, exec (.mulnr t d a) s = .next u ∧ Puts d y s u :=
  Commits.puts ⟨ht, operand_of_reg ht (by decide) hx htag, y, hx ▸ hy, rfl⟩

/-- Settles O30: MULNR on FQ2 is written as the product by XI, on FQ6 it is `mulnr6_eq_mul6`, and CONJ is
`coeffs_conjugate`. -/
theorem mulnrAndConjOnTheTower : Obligations.MulnrAndConjOnTheTower := by
  intro s d a hparams hok
  have hP := paramLaws_of_ok hparams
  refine ⟨fun u hu => ?_, fun u hu => ?_, fun ty hty htag => ?_⟩
  · exact puts_of_mulnr (by decide) hu rfl rfl
  · rw [hu] at hok
    rw [← towerV, ← mulnr6_eq_mul6 hP hok]
    exact puts_of_mulnr (by decide) hu rfl rfl
  · have hmem : ty ∈ [TCode.fq2, .fq12] := by simpa using hty
    obtain ⟨x, hx⟩ := conjugate_ok s.params (htag ▸ hmem)
    obtain ⟨htagx, hcs⟩ := coeffs_conjugate hP hok hx
    rw [htag] at htagx hcs
    have hcommits : Commits s (.conj ty d a) (.put d x) :=
      ⟨hmem, operand_of_reg hmem (by decide) rfl htag, x, hx, rfl⟩
    exact hcommits.putsCoeffs htagx ((valueOk_kept hparams).conj _ _ hok hx) hcs

/-! ### EQ, ISZERO and ISONE -/

/-- A field value is no BOOL and has no flag (40_data_movement.md R161). -/
theorem flagOf_of_field {x : Value} (h : tagOf x ∈ fieldTypes) : flagOf x = none := by
  obtain ⟨_, rfl⟩ | ⟨_, rfl⟩ | ⟨_, rfl⟩ | ⟨_, rfl⟩ | ⟨_, rfl⟩ := tagOf_mem_fieldTypes h <;> rfl

/-- Two canonical field values of one type are equal when their canonical integers are. -/
theorem coeffs_inj_of_field {P : ParamStore} (hP : ParamLaws P) {x y : Value} (hx : valueOk P x = true)
    (hy : valueOk P y = true) (htag : tagOf x = tagOf y) (hty : tagOf x ∈ fieldTypes) :
    coeffs P x = coeffs P y ↔ x = y :=
  ⟨value_ext hP hx hy htag (by rw [flagOf_of_field hty, flagOf_of_field (htag ▸ hty)]), congrArg _⟩

theorem fieldCompare_eq_iff {P : ParamStore} {x y : Value} {z : Bool}
    (hz : fieldCompare P (fun _ F => F.eq) x y = .ok z) : z = true ↔ x = y := by
  unfold fieldCompare at hz
  split at hz <;> cases hz <;> simp [frOps, fqOps, baseOps, fq2Ops, fq6Ops, fq12Ops]

theorem fieldTest_isZero_iff {P : ParamStore} {x : Value} {z : Bool}
    (hz : fieldTest P (fun _ F => F.isZero) x = .ok z) : z = true ↔ .ok x = constValue P (tagOf x) 0 := by
  unfold fieldTest at hz
  split at hz <;> cases hz <;>
    simp [constValue, tagOf, frOps, fqOps, baseOps, fq2Ops, fq6Ops, fq12Ops]

theorem fieldTest_isOne_iff {P : ParamStore} {x : Value} {z : Bool}
    (hz : fieldTest P (fun _ F => F.isOne) x = .ok z) : z = true ↔ .ok x = constValue P (tagOf x) 1 := by
  unfold fieldTest at hz
  split at hz <;> cases hz <;>
    simp [constValue, tagOf, frOps, fqOps, baseOps, fq2Ops, fq6Ops, fq12Ops]

/-- A canonical field value is the zero or the one of its type when its canonical integers are. -/
theorem eq_constValue_iff {s : State} {x : Value} {k : BitVec 10} (hparams : paramsOk s.params = true)
    (hx : valueOk s.params x = true) (hty : tagOf x ∈ fieldTypes) (hk : k.toNat ≤ 1) :
    .ok x = constValue s.params (tagOf x) k ↔
      coeffs s.params x = k.toNat :: List.replicate (coeffCount (tagOf x) - 1) 0 := by
  have hP := paramLaws_of_ok hparams
  obtain ⟨y, hy, htag⟩ := constValue_ok s.params k (mem_allTypes_of_field hty)
  rw [hy, ← coeffs_constValue_of_field hP hty hk hy,
    coeffs_inj_of_field hP hx ((valueOk_kept hparams).constValue hy) htag.symm hty, Except.ok.injEq]

theorem coeffCount_pos_of_field {t : TCode} (h : t ∈ fieldTypes) : 1 ≤ coeffCount t := by
  revert h
  cases t <;> decide

/-- Settles O29: each test compares with a value, the zero and the one being CONST's (`eq_constValue_iff`). -/
theorem fieldTestsCompareCanonicalValues : Obligations.FieldTestsCompareCanonicalValues := by
  intro s ty d a b hparams hty hta hoka
  have hP := paramLaws_of_ok hparams
  have hall := mem_allTypes_of_field hty
  have hopa := operand_of_tag hall hta
  have hfield : tagOf (s.reg a) ∈ fieldTypes := hta ▸ hty
  refine ⟨fun htb hokb => ?_, ?_, ?_⟩
  · have htags := htb.trans hta.symm
    obtain ⟨z, hz⟩ := fieldCompare_ok s.params (fun _ F => F.eq) hfield htags
    obtain ⟨t, ht, hputs⟩ :=
      Commits.puts (i := .eq ty d a b) ⟨hty, hopa, operand_of_tag hall htb, z, hz, rfl⟩
    refine ⟨t, z, ht, hputs, ?_⟩
    rw [fieldCompare_eq_iff hz, coeffs_inj_of_field hP hoka hokb htags.symm hfield]
  · obtain ⟨z, hz⟩ := fieldTest_ok s.params (fun _ F => F.isZero) hfield
    obtain ⟨t, ht, hputs⟩ := Commits.puts (i := .iszero ty d a) ⟨hty, hopa, z, hz, rfl⟩
    refine ⟨t, z, ht, hputs, ?_⟩
    have hcount := Nat.sub_add_cancel (coeffCount_pos_of_field hfield)
    rw [fieldTest_isZero_iff hz, eq_constValue_iff hparams hoka hfield (by decide),
      show BitVec.toNat (0 : BitVec 10) = 0 from rfl, ← List.replicate_succ, hcount, List.eq_replicate_iff,
      coeffs_eq_intsOf, length_intsOf]
    exact and_iff_right rfl
  · obtain ⟨z, hz⟩ := fieldTest_ok s.params (fun _ F => F.isOne) hfield
    obtain ⟨t, ht, hputs⟩ := Commits.puts (i := .isone ty d a) ⟨hty, hopa, z, hz, rfl⟩
    refine ⟨t, z, ht, hputs, ?_⟩
    rw [fieldTest_isOne_iff hz, eq_constValue_iff hparams hoka hfield (by decide), hta]
    rfl

end Sys2Proof.Machine
end

section
/-!
The products of the five fields and the Montgomery reduction (43_field_instructions.md R285, R286, R288,
42_extension_tower.md R243, R247, R250).
-/

namespace Sys2Proof.Machine

open Config

/-! ### MRED -/

/-- The reduction of a raw integer divides it, and its canonical value, by R_F (41_field_kernel.md R209). -/
theorem montReduce_divides {w : Nat} {F : BaseField w} (hF : BaseFieldLaws F) {m : BitVec w}
    (hm : canonical F m = true) :
    (montReduce F m.toNat).toNat < F.p.toNat ∧ (montReduce F m.toNat).toNat * 2 ^ w % F.p.toNat = m.toNat ∧
      valOf F (montReduce F m.toNat) * 2 ^ w % F.p.toNat = valOf F m := by
  -- the reduced raw integer is the canonical value of `m`, and so for every raw integer
  have hmod : ∀ x : BitVec w, canonical F x = true → valOf F x * 2 ^ w % F.p.toNat = x.toNat := fun x hx =>
    Nat.mod_eq_of_modEq (valOf_spec hF x).2 (canonical_iff.1 hx)
  exact ⟨valOf_lt hF m, hmod m hm, hmod _ (canonical_iff.2 (valOf_lt hF m))⟩

theorem puts_of_mred {s : State} {t : TCode} {d a : Reg} {x y : Value} (ht : t ∈ [TCode.fr, .fq])
    (hx : s.reg a = x) (htag : tagOf x = t) (hy : reduceValue s.params x = .ok y) :
    ∃ u, exec (.mred t d a) s = .next u ∧ Puts d y s u :=
  Commits.puts ⟨ht, operand_of_reg ht (by decide) hx htag, y, hx ▸ hy, rfl⟩

/-- Settles O28: MRED puts the Montgomery reduction of the raw integer. -/
theorem reduceDividesByR : Obligations.ReduceDividesByR := by
  intro s d a hparams hok
  have hP := paramLaws_of_ok hparams
  refine ⟨fun m hm => ?_, fun m hm => ?_⟩ <;> rw [hm] at hok
  · obtain ⟨t, ht, hputs⟩ := puts_of_mred (t := .fr) (d := d) (by decide) hm rfl rfl
    exact ⟨t, _, ht, hputs, montReduce_divides hP.fr hok⟩
  · obtain ⟨t, ht, hputs⟩ := puts_of_mred (t := .fq) (d := d) (by decide) hm rfl rfl
    exact ⟨t, _, ht, hputs, montReduce_divides hP.fq hok⟩

/-! ### MUL and SQR -/

/-- SQR's function is MUL's on the operand twice (43_field_instructions.md R286). -/
theorem fieldUnary_sqr (P : ParamStore) (x : Value) :
    fieldUnary P (fun _ F => F.sqr) x = fieldBinary P (fun _ F => F.mul) x x := by
  cases x <;> rfl

theorem puts_of_mul {s : State} {t : TCode} {d a b : Reg} {x y z : Value} (ht : t ∈ fieldTypes)
    (hx : s.reg a = x) (hy : s.reg b = y) (htx : tagOf x = t) (hty : tagOf y = t)
    (hz : fieldBinary s.params (fun _ F => F.mul) x y = .ok z) :
    ∃ u, exec (.mul t d a b) s = .next u ∧ Puts d z s u :=
  Commits.puts ⟨ht, operand_of_reg ht (by decide) hx htx, operand_of_reg ht (by decide) hy hty, z,
    by rw [hx, hy, hz], rfl⟩

section

variable {P : ParamStore} (hP : ParamLaws P)

include hP

/-- The product in FQ[u]/(u² - BETA) in canonical integers (42_extension_tower.md R243). -/
theorem valOf_mul2 {u v : Fq2} (hu : canonical2 P u = true) :
    valOf P.fq (mul2 P u v).c0 = (valOf P.fq u.c0 * valOf P.fq v.c0 +
        valOf P.fq P.beta * (valOf P.fq u.c1 * valOf P.fq v.c1)) % P.fq.p.toNat ∧
      valOf P.fq (mul2 P u v).c1 =
        (valOf P.fq u.c0 * valOf P.fq v.c1 + valOf P.fq u.c1 * valOf P.fq v.c0) % P.fq.p.toNat := by
  obtain ⟨hre, him⟩ := QuadraticAlgebra.ext_iff.1 (residue2_mul2 hP (b := v) hu)
  refine ⟨valOf_eq_mod hP.fq ?_, valOf_eq_mod hP.fq ?_⟩ <;>
    simp only [Nat.cast_add, Nat.cast_mul, natCast_valOf hP.fq]
  · refine hre.trans ?_
    simp only [residue2, QuadraticAlgebra.re_mul]
    ring
  · refine him.trans ?_
    simp only [residue2, QuadraticAlgebra.im_mul]
    ring

/-- MULNR on FQ2 with its factors exchanged (42_extension_tower.md R245). -/
theorem mulnr2_eq_mul2 {a : Fq2} (ha : canonical2 P a = true) : mulnr2 P a = mul2 P P.xi a :=
  (fq2Ops_reads hP).ringLaws.mul_comm _ _ ha hP.xi

/-- The product in FQ2[v]/(v³ - XI) (42_extension_tower.md R247). -/
theorem mul6_components (u v : Fq6) :
    (mul6 P u v).c0 = add2 P (mul2 P u.c0 v.c0)
        (mul2 P P.xi (add2 P (mul2 P u.c1 v.c2) (mul2 P u.c2 v.c1))) ∧
      (mul6 P u v).c1 = add2 P (add2 P (mul2 P u.c0 v.c1) (mul2 P u.c1 v.c0))
        (mul2 P P.xi (mul2 P u.c2 v.c2)) ∧
      (mul6 P u v).c2 = add2 P (add2 P (mul2 P u.c0 v.c2) (mul2 P u.c1 v.c1)) (mul2 P u.c2 v.c0) := by
  rw [← mulnr2_eq_mul2 hP (add2_canonical hP _ _), ← mulnr2_eq_mul2 hP (mul2_canonical hP _ _)]
  exact ⟨rfl, rfl, rfl⟩

/-- The product in FQ6[w]/(w² - v) (42_extension_tower.md R250). -/
theorem mul12_components {u v : Fq12} (hu : canonical12 P u = true) :
    (mul12 P u v).c0 = add6 P (mul6 P u.c0 v.c0) (mul6 P (towerV P) (mul6 P u.c1 v.c1)) ∧
      (mul12 P u v).c1 = add6 P (mul6 P u.c0 v.c1) (mul6 P u.c1 v.c0) := by
  obtain ⟨h0, h1⟩ := canonical12_iff.1 hu
  obtain ⟨hre, him⟩ := QuadraticAlgebra.ext_iff.1 (residue12_mul12 hP v hu)
  refine ⟨residue6_inj hP (add6_canonical hP _ _) (add6_canonical hP _ _) (hre.trans ?_),
    residue6_inj hP (sub6_canonical hP _ _) (add6_canonical hP _ _) (him.trans ?_)⟩
  · rw [residue6_add6 hP, residue6_mul6 hP _ h0, residue6_mul6 hP _ (towerV_canonical hP),
      residue6_mul6 hP _ h1, residue6_towerV hP]
    simp only [residue12, QuadraticAlgebra.re_mul]
    ring
  · rw [residue6_add6 hP, residue6_mul6 hP _ h0, residue6_mul6 hP _ h1]
    simp only [residue12, QuadraticAlgebra.im_mul]
    ring

end

/-- Settles O25: MUL puts the field's product, which each level's lemma above writes out. -/
theorem multiplyIsTheFieldProduct : Obligations.MultiplyIsTheFieldProduct := by
  intro s d a b hparams hok _ P p
  have hP := paramLaws_of_ok hparams
  refine ⟨fun ty hty hta => ?_, fun u v hu hv => ?_, fun u v hu hv => ?_, fun u v hu hv => ?_,
    fun u v hu hv => ?_, fun u v hu hv => ?_⟩
  · have hop := operand_of_tag (mem_allTypes_of_field hty) hta
    obtain ⟨x, hx, htag⟩ := fieldBinary_ok P (fun _ F => F.mul) (hta ▸ hty) (rfl : tagOf (s.reg a) = _)
    have hsqr : Commits s (.sqr ty d a) (.put d x) := ⟨hty, hop, x, (fieldUnary_sqr _ _).trans hx, rfl⟩
    have hmul : Commits s (.mul ty d a a) (.put d x) := ⟨hty, hop, hop, x, hx, rfl⟩
    exact ⟨_, x, hsqr.exec_eq, hmul.exec_eq, puts_of_put d x s, htag.trans hta⟩
  all_goals rw [hu] at hok
  · obtain ⟨t, ht, hputs⟩ := puts_of_mul (t := .fr) (d := d) (by decide) hu hv rfl rfl rfl
    exact ⟨t, _, ht, hputs, montMul_canonical hP.fr v hok, valOf_montMul hP.fr v hok⟩
  · obtain ⟨t, ht, hputs⟩ := puts_of_mul (t := .fq) (d := d) (by decide) hu hv rfl rfl rfl
    exact ⟨t, _, ht, hputs, montMul_canonical hP.fq v hok, valOf_montMul hP.fq v hok⟩
  · obtain ⟨t, ht, hputs⟩ := puts_of_mul (t := .fq2) (d := d) (by decide) hu hv rfl rfl rfl
    exact ⟨t, _, ht, hputs, mul2_canonical hP u v, valOf_mul2 hP hok⟩
  · obtain ⟨t, ht, hputs⟩ := puts_of_mul (t := .fq6) (d := d) (by decide) hu hv rfl rfl rfl
    exact ⟨t, _, ht, hputs, mul6_components hP u v⟩
  · obtain ⟨t, ht, hputs⟩ := puts_of_mul (t := .fq12) (d := d) (by decide) hu hv rfl rfl rfl
    exact ⟨t, _, ht, hputs, mul12_components hP hok⟩

end Sys2Proof.Machine
end

section
/-!
SUPPORT. The sum on y²·z = x³ + b·z³ is the group law (44_curve_group_law.md R320, R336): the sum of opposite
points has X = Z = 0, the points at infinity are neutral, and the sum of two finite points lies on their chord
or tangent.
-/

namespace Sys2Proof.Machine

section

variable {L : Type} [Field L]

/-! ### Opposite points and points at infinity -/

/-- The two cross terms of the sum are 0 when the points are opposite to each other, at infinity too. -/
theorem WPoint.cross_terms_of_opposite {b x₁ y₁ z₁ x₂ y₂ z₂ : L} (h₁ : WPoint b x₁ y₁ z₁)
    (h₂ : WPoint b x₂ y₂ z₂) (hx : x₂ * z₁ = x₁ * z₂) (hy : y₂ * z₁ = -y₁ * z₂) :
    x₁ * y₂ + x₂ * y₁ = 0 ∧ y₁ * z₂ + y₂ * z₁ = 0 := by
  refine ⟨?_, by linear_combination hy⟩
  by_cases hz₁ : z₁ = 0
  · have hz₂ : z₂ = 0 := by
      refine (mul_eq_zero.1 ?_).resolve_left (h₁.2 hz₁)
      linear_combination hy - y₂ * hz₁
    rw [h₁.x_eq_zero hz₁, h₂.x_eq_zero hz₂]
    ring
  · refine (mul_eq_zero.1 ?_).resolve_left hz₁
    linear_combination x₁ * hy + y₁ * hx

/-- P + (-P) is (0, λ, 0) with λ not 0, for every representative of -P (44_curve_group_law.md R336). -/
theorem WPoint.sum_of_opposite {b x₁ y₁ z₁ x₂ y₂ z₂ : L} (h2 : (2 : L) ≠ 0) (hb : ∀ t : L, t ^ 3 ≠ -b)
    (h₁ : WPoint b x₁ y₁ z₁) (h₂ : WPoint b x₂ y₂ z₂) (hx : x₂ * z₁ = x₁ * z₂) (hy : y₂ * z₁ = -y₁ * z₂) :
    sumX b x₁ y₁ z₁ x₂ y₂ z₂ = 0 ∧ sumY b x₁ y₁ z₁ x₂ y₂ z₂ ≠ 0 ∧ sumZ b x₁ y₁ z₁ x₂ y₂ z₂ = 0 := by
  obtain ⟨hxy, hyz⟩ := h₁.cross_terms_of_opposite h₂ hx hy
  have hX : sumX b x₁ y₁ z₁ x₂ y₂ z₂ = 0 := by unfold sumX; rw [hxy, hyz]; ring
  have hZ : sumZ b x₁ y₁ z₁ x₂ y₂ z₂ = 0 := by unfold sumZ; rw [hxy, hyz]; ring
  exact ⟨hX, (h₁.add h2 hb h₂).2 hZ, hZ⟩

/-- The sum does not depend on the order of the points. -/
theorem sum_comm (b x₁ y₁ z₁ x₂ y₂ z₂ : L) : sumX b x₁ y₁ z₁ x₂ y₂ z₂ = sumX b x₂ y₂ z₂ x₁ y₁ z₁ ∧
    sumY b x₁ y₁ z₁ x₂ y₂ z₂ = sumY b x₂ y₂ z₂ x₁ y₁ z₁ ∧
    sumZ b x₁ y₁ z₁ x₂ y₂ z₂ = sumZ b x₂ y₂ z₂ x₁ y₁ z₁ := by
  unfold sumX sumY sumZ
  refine ⟨?_, ?_, ?_⟩ <;> ring

/-- The sum of the point (0, y₀, 0) at infinity and a point is that point, its coordinates scaled. -/
theorem sum_infinity_left (b y₀ x y z : L) : sumX b 0 y₀ 0 x y z = y₀ ^ 2 * y * x ∧
    sumY b 0 y₀ 0 x y z = y₀ ^ 2 * y * y ∧ sumZ b 0 y₀ 0 x y z = y₀ ^ 2 * y * z := by
  unfold sumX sumY sumZ
  refine ⟨?_, ?_, ?_⟩ <;> ring

/-! ### The chord and the tangent -/

/-- (x : y : z) is the sum the line of slope n / d through (u₁, v₁) gives, u₂ being the x of its second
intersection: x/z = (n/d)² - u₁ - u₂ and y/z = (n/d)·(u₁ - x/z) - v₁, without the denominators
(44_curve_group_law.md R320). -/
def LineSum (n d u₁ v₁ u₂ x y z : L) : Prop :=
  z ≠ 0 ∧ x * d ^ 2 = z * (n ^ 2 - (u₁ + u₂) * d ^ 2) ∧
    y * d ^ 3 = n * (u₁ * z * d ^ 2 - x * d ^ 2) - v₁ * z * d ^ 3

/-- The sum a line gives is one of points, not of their representatives. -/
theorem LineSum.scale {n d u₁ v₁ u₂ x y z s : L} (hs : s ≠ 0) (h : LineSum n d u₁ v₁ u₂ x y z) :
    LineSum n d u₁ v₁ u₂ (s * x) (s * y) (s * z) := by
  obtain ⟨hz, hx, hy⟩ := h
  exact ⟨mul_ne_zero hs hz, by linear_combination s * hx, by linear_combination s * hy⟩

theorem sumX_chord {b u₁ v₁ u₂ v₂ : L} (h₁ : v₁ ^ 2 = u₁ ^ 3 + b) (h₂ : v₂ ^ 2 = u₂ ^ 3 + b) :
    sumX b u₁ v₁ 1 u₂ v₂ 1 * (u₂ - u₁) ^ 2 =
      sumZ b u₁ v₁ 1 u₂ v₂ 1 * ((v₂ - v₁) ^ 2 - (u₁ + u₂) * (u₂ - u₁) ^ 2) := by
  unfold sumX sumZ
  grind

theorem sumY_chord {b u₁ v₁ u₂ v₂ : L} (h₁ : v₁ ^ 2 = u₁ ^ 3 + b) (h₂ : v₂ ^ 2 = u₂ ^ 3 + b) :
    sumY b u₁ v₁ 1 u₂ v₂ 1 * (u₂ - u₁) ^ 3 =
      (v₂ - v₁) * (u₁ * sumZ b u₁ v₁ 1 u₂ v₂ 1 * (u₂ - u₁) ^ 2 - sumX b u₁ v₁ 1 u₂ v₂ 1 * (u₂ - u₁) ^ 2) -
        v₁ * sumZ b u₁ v₁ 1 u₂ v₂ 1 * (u₂ - u₁) ^ 3 := by
  unfold sumX sumY sumZ
  grind

/-- The sum of two points with different x lies on their chord. -/
theorem lineSum_chord {b u₁ v₁ u₂ v₂ : L} (hb : ∀ t : L, t ^ 3 ≠ -b) (h₁ : v₁ ^ 2 = u₁ ^ 3 + b)
    (h₂ : v₂ ^ 2 = u₂ ^ 3 + b) (hne : u₁ ≠ u₂) :
    LineSum (v₂ - v₁) (u₂ - u₁) u₁ v₁ u₂
      (sumX b u₁ v₁ 1 u₂ v₂ 1) (sumY b u₁ v₁ 1 u₂ v₂ 1) (sumZ b u₁ v₁ 1 u₂ v₂ 1) := by
  refine ⟨fun hz => ?_, sumX_chord h₁ h₂, sumY_chord h₁ h₂⟩
  obtain ⟨t, ht⟩ := cube_of_sumZ_eq_zero h₁ h₂ hne hz
  exact hb t ht

/-- The double of a point lies on its tangent. -/
theorem lineSum_tangent {b u v : L} (h2 : (2 : L) ≠ 0) (hv : v ≠ 0) (h : v ^ 2 = u ^ 3 + b) :
    LineSum (3 * u ^ 2) (2 * v) u v u (dblX b u v 1) (dblY b v 1) (dblZ v 1) := by
  have hz : dblZ v 1 = 2 ^ 3 * v ^ 3 := by unfold dblZ; ring
  refine ⟨hz ▸ mul_ne_zero (pow_ne_zero 3 h2) (pow_ne_zero 3 hv), ?_, ?_⟩
  · unfold dblX dblZ
    linear_combination 72 * u * v ^ 3 * h
  · unfold dblX dblY dblZ
    linear_combination (72 * v ^ 5 + 216 * b * v ^ 3) * h

/-- The sum of a finite point with itself is its double (44_curve_group_law.md R327, R328). -/
theorem sum_self {b u v : L} (h : v ^ 2 = u ^ 3 + b) : sumX b u v 1 u v 1 = dblX b u v 1 ∧
    sumY b u v 1 u v 1 = dblY b v 1 ∧ sumZ b u v 1 u v 1 = dblZ v 1 := by
  unfold sumX sumY sumZ dblX dblY dblZ
  refine ⟨by ring, ?_, ?_⟩
  · linear_combination -18 * b * h
  · linear_combination -6 * v * h

/-! ### Representatives -/

/-- Cross-multiplied coordinates compare the affine ones. -/
theorem cross_mul_iff {z₁ z₂ : L} (hz₁ : z₁ ≠ 0) (hz₂ : z₂ ≠ 0) (r s : L) :
    r * z₁ * z₂ = s * z₂ * z₁ ↔ r = s := by
  rw [mul_assoc, mul_assoc s, mul_comm z₂, mul_left_inj' (mul_ne_zero hz₁ hz₂)]

/-- The sum of representatives is the sum of the affine points, scaled. -/
theorem sum_scale (b u₁ v₁ z₁ u₂ v₂ z₂ : L) :
    sumX b (u₁ * z₁) (v₁ * z₁) z₁ (u₂ * z₂) (v₂ * z₂) z₂ = (z₁ * z₂) ^ 2 * sumX b u₁ v₁ 1 u₂ v₂ 1 ∧
    sumY b (u₁ * z₁) (v₁ * z₁) z₁ (u₂ * z₂) (v₂ * z₂) z₂ = (z₁ * z₂) ^ 2 * sumY b u₁ v₁ 1 u₂ v₂ 1 ∧
    sumZ b (u₁ * z₁) (v₁ * z₁) z₁ (u₂ * z₂) (v₂ * z₂) z₂ = (z₁ * z₂) ^ 2 * sumZ b u₁ v₁ 1 u₂ v₂ 1 := by
  unfold sumX sumY sumZ
  refine ⟨?_, ?_, ?_⟩ <;> ring

/-- The double of a representative is the double of the affine point, scaled. -/
theorem dbl_scale (b u v z : L) : dblX b (u * z) (v * z) z = z ^ 4 * dblX b u v 1 ∧
    dblY b (v * z) z = z ^ 4 * dblY b v 1 ∧ dblZ (v * z) z = z ^ 4 * dblZ v 1 := by
  unfold dblX dblY dblZ
  refine ⟨?_, ?_, ?_⟩ <;> ring

end

end Sys2Proof.Machine
end

section
/-!
A Weierstrass group whose coordinates read as a field and whose premises of 44_curve_group_law.md R335 hold:
its equality test, its sum and its double on every valid representative, and G1 and G2 of a conforming
parameter set as two such groups (44_curve_group_law.md R336).
-/

namespace Sys2Proof.Machine

open Config

theorem FieldOps.Encodes.inj {K L : Type} [CommRing L] {F : FieldOps K} {ok : K → Prop} {σ : L → K}
    (h : F.Encodes ok σ) {x y : L} : σ x = σ y ↔ x = y :=
  ⟨fun hxy => (h.eq_iff x y).1 (hxy ▸ (h.eq_iff x x).2 rfl), fun hxy => hxy ▸ rfl⟩

/-- An inverse function of the model is one of the field its elements read as. -/
theorem FieldOps.Encodes.exists_inv {K L : Type} [CommRing L] {F : FieldOps K} {ok : K → Prop} {φ : K → L}
    {σ : L → K} (h : F.Encodes ok σ) (hF : F.Reads ok φ) (hσ : ∀ x, φ (σ x) = x)
    (hinv : ∀ a, ok a → a ≠ F.zero → ∃ z, F.inv a = some z ∧ ok z ∧ φ a * φ z = 1) {x : L} (hx : x ≠ 0) :
    ∃ y, F.inv (σ x) = some (σ y) ∧ x * y = 1 := by
  have hne : σ x ≠ F.zero := fun hz => hx ((h.isZero_iff x).1 ((hF.isZero_iff _).2 hz))
  obtain ⟨z, hz, hokz, hxz⟩ := hinv (σ x) ((h.ok_iff _).2 ⟨x, rfl⟩) hne
  obtain ⟨y, rfl⟩ := (h.ok_iff z).1 hokz
  exact ⟨y, hz, by rwa [hσ, hσ] at hxz⟩

/-- A Weierstrass group over coordinates that `σ` writes from a field, `β` being its b: the premises under
which its addition is complete (44_curve_group_law.md R335). -/
structure CompleteWeierstrass {K L : Type} [Field L] (F : FieldOps K) (ok : K → Bool) (b b3 : K) (σ : L → K)
    (β : L) : Prop where
  encodes : F.Encodes (fun a => ok a = true) σ
  two_ne : (2 : L) ≠ 0
  b_eq : b = σ β
  b3_eq : b3 = σ (β + β + β)
  not_cube : ∀ t : L, t ^ 3 ≠ -β
  inv : ∀ x : L, x ≠ 0 → ∃ y, F.inv (σ x) = some (σ y) ∧ x * y = 1

/-- A valid point: a representative of the point at infinity or of a finite point of the curve. -/
inductive ProjForm {K L : Type} [Field L] (σ : L → K) (β : L) : ProjPoint K → Prop
  | infinity (y : L) (hy : y ≠ 0) : ProjForm σ β ⟨σ 0, σ y, σ 0⟩
  | finite (u v z : L) (hz : z ≠ 0) (hcurve : v ^ 2 = u ^ 3 + β) : ProjForm σ β ⟨σ (u * z), σ (v * z), σ z⟩

section

variable {K L : Type} [Field L] {F : FieldOps K} {ok : K → Bool} {b b3 : K} {σ : L → K} {β : L}
  (h : CompleteWeierstrass F ok b b3 σ β)

include h

theorem CompleteWeierstrass.validProj {p : ProjPoint K} (hp : ValidProj F ok b p) :
    ∃ x y z, p = ⟨σ x, σ y, σ z⟩ ∧ WPoint β x y z := by
  rw [h.b_eq] at hp
  exact (validProj_iff h.encodes).1 hp

theorem CompleteWeierstrass.projForm {p : ProjPoint K} (hp : ValidProj F ok b p) : ProjForm σ β p := by
  obtain ⟨x, y, z, rfl, hc⟩ := h.validProj hp
  by_cases hz : z = 0
  · rw [hc.x_eq_zero hz, hz]
    exact .infinity y (hc.2 hz)
  · obtain ⟨u, v, rfl, rfl, huv⟩ := hc.affine hz
    exact .finite u v z hz huv

/-! ### The point functions in the field -/

/-- PEQ's test in the field (44_curve_group_law.md R332). -/
theorem CompleteWeierstrass.eqE_iff (x₁ y₁ z₁ x₂ y₂ z₂ : L) :
    (weierstrassOps F b b3).eqE ⟨σ x₁, σ y₁, σ z₁⟩ ⟨σ x₂, σ y₂, σ z₂⟩ = true ↔
      x₁ * z₂ = x₂ * z₁ ∧ y₁ * z₂ = y₂ * z₁ := by
  simp only [weierstrassOps, eqWP, h.encodes.mul, Bool.and_eq_true, h.encodes.eq_iff]

theorem CompleteWeierstrass.add_eq (x₁ y₁ z₁ x₂ y₂ z₂ : L) :
    (weierstrassOps F b b3).add ⟨σ x₁, σ y₁, σ z₁⟩ ⟨σ x₂, σ y₂, σ z₂⟩ =
      ⟨σ (sumX β x₁ y₁ z₁ x₂ y₂ z₂), σ (sumY β x₁ y₁ z₁ x₂ y₂ z₂), σ (sumZ β x₁ y₁ z₁ x₂ y₂ z₂)⟩ := by
  rw [h.b3_eq]
  exact addW_eq h.encodes x₁ y₁ z₁ x₂ y₂ z₂

theorem CompleteWeierstrass.dbl_eq (x y z : L) : (weierstrassOps F b b3).dbl ⟨σ x, σ y, σ z⟩ =
    ⟨σ (dblX β x y z), σ (dblY β y z), σ (dblZ y z)⟩ := by
  rw [h.b3_eq]
  exact dblW_eq h.encodes x y z

theorem CompleteWeierstrass.negE_eq (x y z : L) :
    (weierstrassOps F b b3).negE ⟨σ x, σ y, σ z⟩ = ⟨σ x, σ (-y), σ z⟩ := by
  simp only [weierstrassOps, negWP, h.encodes.neg]

theorem CompleteWeierstrass.toAff_infinity (x y : L) :
    (weierstrassOps F b b3).toAff ⟨σ x, σ y, σ 0⟩ = some ⟨σ 0, σ 1, true⟩ := by
  simp only [weierstrassOps, toaffW, (h.encodes.isZero_iff 0).2 rfl, h.encodes.zero, h.encodes.one]

theorem CompleteWeierstrass.toAff_finite (u v : L) {z : L} (hz : z ≠ 0) :
    (weierstrassOps F b b3).toAff ⟨σ (u * z), σ (v * z), σ z⟩ = some ⟨σ u, σ v, false⟩ := by
  obtain ⟨z', hz', hzz⟩ := h.inv z hz
  simp only [weierstrassOps, toaffW, (h.encodes.isZero_eq_false_iff z).2 hz, hz', h.encodes.mul, mul_assoc, hzz,
    mul_one]

/-- A point with an affine form off the identity is finite. -/
theorem CompleteWeierstrass.finite_of_toAff {p : ProjPoint K} {a : AffinePoint K} (hp : ValidProj F ok b p)
    (ha : (weierstrassOps F b b3).toAff p = some a) (hinf : a.inf = false) :
    ∃ u v z, p = ⟨σ (u * z), σ (v * z), σ z⟩ ∧ z ≠ 0 ∧ v ^ 2 = u ^ 3 + β ∧ a = ⟨σ u, σ v, false⟩ := by
  cases h.projForm hp with
  | infinity y hy =>
    rw [h.toAff_infinity, Option.some.injEq] at ha
    rw [← ha] at hinf
    cases hinf
  | finite u v z hz hcurve =>
    rw [h.toAff_finite u v hz, Option.some.injEq] at ha
    exact ⟨u, v, z, rfl, hz, hcurve, ha.symm⟩

/-! ### Equality, cancellation and neutrality -/

/-- PEQ's test on valid points is equality of their affine forms (44_curve_group_law.md R332, R336). -/
theorem CompleteWeierstrass.eqE_iff_toAff {p q : ProjPoint K} (hp : ValidProj F ok b p)
    (hq : ValidProj F ok b q) : (weierstrassOps F b b3).eqE p q = true ↔
      (weierstrassOps F b b3).toAff p = (weierstrassOps F b b3).toAff q := by
  cases h.projForm hp with
  | infinity y₁ hy₁ =>
    cases h.projForm hq with
    | infinity y₂ hy₂ => simp [h.eqE_iff, h.toAff_infinity]
    | finite u v z hz hcurve => simp [h.eqE_iff, h.toAff_infinity, h.toAff_finite u v hz, hy₁, hz]
  | finite u₁ v₁ z₁ hz₁ hc₁ =>
    cases h.projForm hq with
    | infinity y hy => simp [h.eqE_iff, h.toAff_infinity, h.toAff_finite u₁ v₁ hz₁, hy, hz₁]
    | finite u₂ v₂ z₂ hz₂ hc₂ =>
      simp [h.eqE_iff, h.toAff_finite _ _ hz₁, h.toAff_finite _ _ hz₂, cross_mul_iff hz₁ hz₂, h.encodes.inj]

/-- P + (-P) is (0, λ, 0) with λ not 0 (44_curve_group_law.md R336). -/
theorem CompleteWeierstrass.add_of_eqE_negE {p q : ProjPoint K} (hp : ValidProj F ok b p)
    (hq : ValidProj F ok b q)
    (heq : (weierstrassOps F b b3).eqE q ((weierstrassOps F b b3).negE p) = true) :
    ∃ l, l ≠ F.zero ∧ (weierstrassOps F b b3).add p q = ⟨F.zero, l, F.zero⟩ := by
  obtain ⟨x₁, y₁, z₁, rfl, hc₁⟩ := h.validProj hp
  obtain ⟨x₂, y₂, z₂, rfl, hc₂⟩ := h.validProj hq
  rw [h.negE_eq, h.eqE_iff] at heq
  obtain ⟨hX, hY, hZ⟩ := hc₁.sum_of_opposite h.two_ne h.not_cube hc₂ heq.1 heq.2
  refine ⟨σ (sumY β x₁ y₁ z₁ x₂ y₂ z₂), ?_, ?_⟩
  · rwa [h.encodes.zero, ne_eq, h.encodes.inj]
  · rw [h.add_eq, hX, hZ, h.encodes.zero]

/-- O + P and P + O are P for every representative of O (44_curve_group_law.md R336). -/
theorem CompleteWeierstrass.add_identity {p o : ProjPoint K} (hp : ValidProj F ok b p)
    (ho : ValidProj F ok b o) (hid : (weierstrassOps F b b3).isidE o = true) :
    (weierstrassOps F b b3).eqE ((weierstrassOps F b b3).add o p) p = true ∧
      (weierstrassOps F b b3).eqE ((weierstrassOps F b b3).add p o) p = true := by
  obtain ⟨x, y, z, rfl, -⟩ := h.validProj hp
  obtain ⟨x₀, y₀, z₀, rfl, hc⟩ := h.validProj ho
  obtain rfl : z₀ = 0 := (h.encodes.isZero_iff z₀).1 hid
  obtain rfl : x₀ = 0 := hc.x_eq_zero rfl
  obtain ⟨hX, hY, hZ⟩ := sum_infinity_left β y₀ x y z
  obtain ⟨hX', hY', hZ'⟩ := sum_comm β x y z 0 y₀ 0
  rw [h.add_eq, h.add_eq, hX', hY', hZ', hX, hY, hZ, and_self, h.eqE_iff]
  exact ⟨by ring, by ring⟩

/-! ### The chord and the tangent -/

/-- The chord equations of the model are those of the line through the two points. -/
theorem CompleteWeierstrass.chordSum_iff (u₁ v₁ u₂ v₂ x y z : L) (i j : Bool) :
    ChordSum F ⟨σ u₁, σ v₁, i⟩ ⟨σ u₂, σ v₂, j⟩ ⟨σ x, σ y, σ z⟩ ↔
      LineSum (v₂ - v₁) (u₂ - u₁) u₁ v₁ u₂ x y z := by
  simp only [ChordSum, LineSum, ne_eq, h.encodes.zero, h.encodes.add, h.encodes.sub, h.encodes.mul,
    h.encodes.inj]
  ring_nf

/-- The tangent equations of the model are those of the line of slope 3·x² / 2·y through the point. -/
theorem CompleteWeierstrass.tangentSum_iff (u v x y z : L) (i : Bool) :
    TangentSum F ⟨σ u, σ v, i⟩ ⟨σ x, σ y, σ z⟩ ↔ LineSum (3 * u ^ 2) (2 * v) u v u x y z := by
  simp only [TangentSum, LineSum, ne_eq, h.encodes.zero, h.encodes.add, h.encodes.sub, h.encodes.mul,
    h.encodes.inj]
  ring_nf

theorem CompleteWeierstrass.v_ne_zero {u v : L} (hcurve : v ^ 2 = u ^ 3 + β) : v ≠ 0 := by
  rintro rfl
  exact h.not_cube u (by linear_combination -hcurve)

/-- The sum of two finite points with different x is their chord sum (44_curve_group_law.md R320, R336). -/
theorem CompleteWeierstrass.chordSum_add {p q : ProjPoint K} {a c : AffinePoint K} (hp : ValidProj F ok b p)
    (hq : ValidProj F ok b q) (ha : (weierstrassOps F b b3).toAff p = some a)
    (hc : (weierstrassOps F b b3).toAff q = some c) (hainf : a.inf = false) (hcinf : c.inf = false)
    (hne : a.x ≠ c.x) : ChordSum F a c ((weierstrassOps F b b3).add p q) := by
  obtain ⟨u₁, v₁, z₁, rfl, hz₁, hc₁, rfl⟩ := h.finite_of_toAff hp ha hainf
  obtain ⟨u₂, v₂, z₂, rfl, hz₂, hc₂, rfl⟩ := h.finite_of_toAff hq hc hcinf
  have hu : u₁ ≠ u₂ := fun hu => hne (congrArg σ hu)
  obtain ⟨hX, hY, hZ⟩ := sum_scale β u₁ v₁ z₁ u₂ v₂ z₂
  rw [h.add_eq, h.chordSum_iff, hX, hY, hZ]
  exact (lineSum_chord h.not_cube hc₁ hc₂ hu).scale (pow_ne_zero 2 (mul_ne_zero hz₁ hz₂))

/-- The sum of two representatives of a finite point is its tangent sum (44_curve_group_law.md R320, R336). -/
theorem CompleteWeierstrass.tangentSum_add {p q : ProjPoint K} {a : AffinePoint K} (hp : ValidProj F ok b p)
    (hq : ValidProj F ok b q) (ha : (weierstrassOps F b b3).toAff p = some a)
    (ha' : (weierstrassOps F b b3).toAff q = some a) (hinf : a.inf = false) :
    TangentSum F a ((weierstrassOps F b b3).add p q) := by
  obtain ⟨u, v, z₁, rfl, hz₁, hcurve, rfl⟩ := h.finite_of_toAff hp ha hinf
  obtain ⟨u', v', z₂, rfl, hz₂, -, heq⟩ := h.finite_of_toAff hq ha' hinf
  simp only [AffinePoint.mk.injEq, h.encodes.inj, and_true] at heq
  obtain ⟨rfl, rfl⟩ := heq
  obtain ⟨hX, hY, hZ⟩ := sum_scale β u v z₁ u v z₂
  obtain ⟨hX', hY', hZ'⟩ := sum_self hcurve
  rw [h.add_eq, h.tangentSum_iff, hX, hY, hZ, hX', hY', hZ']
  exact (lineSum_tangent h.two_ne (h.v_ne_zero hcurve) hcurve).scale (pow_ne_zero 2 (mul_ne_zero hz₁ hz₂))

/-- The double of a finite point is its tangent sum (44_curve_group_law.md R320, R336). -/
theorem CompleteWeierstrass.tangentSum_dbl {p : ProjPoint K} {a : AffinePoint K} (hp : ValidProj F ok b p)
    (ha : (weierstrassOps F b b3).toAff p = some a) (hinf : a.inf = false) :
    TangentSum F a ((weierstrassOps F b b3).dbl p) := by
  obtain ⟨u, v, z, rfl, hz, hcurve, rfl⟩ := h.finite_of_toAff hp ha hinf
  obtain ⟨hX, hY, hZ⟩ := dbl_scale β u v z
  rw [h.dbl_eq, h.tangentSum_iff, hX, hY, hZ]
  exact (lineSum_tangent h.two_ne (h.v_ne_zero hcurve) hcurve).scale (pow_ne_zero 4 hz)

end

/-! ### G1 and G2 -/

/-- The premises of 44_curve_group_law.md R335 in the model's own terms give a complete group. -/
theorem completeWeierstrass_of_reads {K L : Type} [Field L] {F : FieldOps K} {ok : K → Bool} {φ : K → L} {b : K}
    (hF : F.Reads (fun a => ok a = true) φ) (h2 : (2 : L) ≠ 0) (hok : ok b = true)
    (hb : NonCube F (fun a => ok a = true) (F.neg b))
    (hinv : ∀ a, ok a = true → a ≠ F.zero → ∃ z, F.inv a = some z ∧ ok z = true ∧ φ a * φ z = 1) :
    ∃ (σ : L → K) (β : L), CompleteWeierstrass F ok b (F.add (F.add b b) b) σ β := by
  obtain ⟨σ, hσ, h⟩ := hF.exists_encodes
  obtain ⟨β, rfl⟩ := (h.ok_iff b).1 hok
  refine ⟨σ, β, h, h2, rfl, by rw [h.add, h.add], fun t ht => ?_, fun x => h.exists_inv hF hσ hinv⟩
  refine hF.not_cube (hF.keeps.neg _ hok) hb t ?_
  rw [hF.neg _ hok, hσ, ← ht]
  ring

theorem g1_completeWeierstrass {P : ParamStore} (hc : Conforming P) :
    ∃ (L : Type) (_ : Field L) (σ : L → Fq) (β : L),
      CompleteWeierstrass (fqOps P) (canonical P.fq) P.bG1 P.b3G1 σ β := by
  have hP := paramLaws_of_ok hc.ok
  have hprime : Fact P.fq.p.toNat.Prime := ⟨hc.primeFq⟩
  rw [hP.b3G1]
  exact ⟨ZMod P.fq.p.toNat, _, completeWeierstrass_of_reads (baseOps_reads hP.fq)
    (two_ne_zero_of_odd hP.fq.three_le) hP.bG1 hc.g1 fun a => finv_spec hP.fq hc.primeFq⟩

theorem g2_completeWeierstrass {P : ParamStore} (hc : Conforming P) :
    ∃ (L : Type) (_ : Field L) (σ : L → Fq2) (β : L),
      CompleteWeierstrass (fq2Ops P) (canonical2 P) P.bG2 P.b3G2 σ β := by
  have hT := towerField_of_conforming hc
  have hP := hT.laws
  have hprime := hT.prime
  have hbeta := hT.beta
  have h2 : (2 : Fq2Ring P) ≠ 0 := fun h =>
    two_ne_zero_of_odd hP.fq.three_le (congrArg QuadraticAlgebra.re h)
  rw [hP.b3G2]
  exact ⟨Fq2Ring P, _, completeWeierstrass_of_reads (fq2Ops_reads hP) h2 hP.bG2 hc.g2
    fun a => inv2_spec hP hc.primeFq hT.beta_ne⟩

end Sys2Proof.Machine
end

section
/-!
ED over coordinates that read as a field, under the premises of 44_curve_group_law.md R335: its equality test,
its sum and its double on every valid representative (44_curve_group_law.md R323, R329, R330, R336).
-/

namespace Sys2Proof.Machine

open Config

/-- ED over FR written from a field, `c` being a square root of its a and `d` its d: the premises under which
its addition is complete (44_curve_group_law.md R335). -/
structure CompleteEdwards {L : Type} [Field L] (P : ParamStore) (σ : L → Fr) (c d : L) : Prop where
  encodes : (frOps P).Encodes (fun m => canonical P.fr m = true) σ
  two_ne : (2 : L) ≠ 0
  a_eq : P.edA = σ (c * c)
  d_eq : P.edD = σ d
  not_square : ∀ r : L, r * r ≠ d
  inv : ∀ x : L, x ≠ 0 → ∃ y, finv P.fr (σ x) = some (σ y) ∧ x * y = 1

/-- The representative with Z = z of an affine point. -/
def edScaled {L : Type} [Field L] (σ : L → Fr) (u v z : L) : EdExtended :=
  ⟨σ (u * z), σ (v * z), σ (u * v * z), σ z⟩

/-- (u, v) is a point of the affine curve (44_curve_group_law.md R320). -/
def EdCurve {L : Type} [Field L] (c d u v : L) : Prop := c * c * u ^ 2 + v ^ 2 = 1 + d * u ^ 2 * v ^ 2

/-- The sum of (u₁, v₁) and (u₂, v₂) as the formulas give it, its coordinates scaled by s: with
m = d·u₁·u₂·v₁·v₂, E = u₁·v₂ + v₁·u₂ and H = v₁·v₂ - a·u₁·u₂ it is s·(E·(1 - m), (1 + m)·H, E·H,
(1 - m)·(1 + m)) (44_curve_group_law.md R329). -/
def edSum {L : Type} [Field L] (σ : L → Fr) (c d s u₁ v₁ u₂ v₂ : L) : EdExtended :=
  let m := d * u₁ * u₂ * v₁ * v₂
  let e := u₁ * v₂ + v₁ * u₂
  let h := v₁ * v₂ - c * c * (u₁ * u₂)
  ⟨σ (s * (e * (1 - m))), σ (s * ((1 + m) * h)), σ (s * (e * h)), σ (s * ((1 - m) * (1 + m)))⟩

/-- Neither denominator of the addition law is 0 (44_curve_group_law.md R335). -/
theorem EdCurve.denominators_ne_zero {L : Type} [Field L] {c d u₁ v₁ u₂ v₂ : L} (h2 : (2 : L) ≠ 0)
    (hd : ∀ r : L, r * r ≠ d) (h₁ : EdCurve c d u₁ v₁) (h₂ : EdCurve c d u₂ v₂) :
    1 - d * u₁ * u₂ * v₁ * v₂ ≠ 0 ∧ 1 + d * u₁ * u₂ * v₁ * v₂ ≠ 0 := by
  refine ⟨fun h => edwards_complete (e := 1) h2 hd h₁ h₂ (by ring) ?_,
    fun h => edwards_complete (e := -1) h2 hd h₁ h₂ (by ring) ?_⟩
  · linear_combination -h
  · linear_combination h

section

variable {P : ParamStore} {L : Type} [Field L] {σ : L → Fr} {c d : L} (h : CompleteEdwards P σ c d)

include h

/-- A valid point is a representative of an affine point of the curve. -/
theorem CompleteEdwards.edScaled_of_valid {p : EdExtended} (hp : ValidExt P p) :
    ∃ u v z, p = edScaled σ u v z ∧ z ≠ 0 ∧ EdCurve c d u v := by
  obtain ⟨x, y, t, z, rfl, hc⟩ := (validExt_iff h.encodes h.a_eq h.d_eq).1 hp
  obtain ⟨u, v, rfl, rfl, rfl, huv⟩ := hc.affine
  exact ⟨u, v, z, rfl, hc.1, huv⟩

/-! ### The point functions in the field -/

/-- PEQ's test in the field (44_curve_group_law.md R332). -/
theorem CompleteEdwards.eqE_iff (x₁ y₁ t₁ z₁ x₂ y₂ t₂ z₂ : L) :
    (edOps P).eqE ⟨σ x₁, σ y₁, σ t₁, σ z₁⟩ ⟨σ x₂, σ y₂, σ t₂, σ z₂⟩ = true ↔
      x₁ * z₂ = x₂ * z₁ ∧ y₁ * z₂ = y₂ * z₁ := by
  simp only [edOps, eqEE, h.encodes.mul, Bool.and_eq_true, h.encodes.eq_iff]

/-- PEQ's test compares the affine points of two representatives. -/
theorem CompleteEdwards.eqE_edScaled_iff {u₁ v₁ z₁ u₂ v₂ z₂ : L} (hz₁ : z₁ ≠ 0) (hz₂ : z₂ ≠ 0) :
    (edOps P).eqE (edScaled σ u₁ v₁ z₁) (edScaled σ u₂ v₂ z₂) = true ↔ u₁ = u₂ ∧ v₁ = v₂ := by
  rw [edScaled, edScaled, h.eqE_iff, cross_mul_iff hz₁ hz₂, cross_mul_iff hz₁ hz₂]

theorem CompleteEdwards.toAff_edScaled (u v : L) {z : L} (hz : z ≠ 0) :
    (edOps P).toAff (edScaled σ u v z) = some ⟨σ u, σ v⟩ := by
  have hmul : ∀ x y, montMul P.fr (σ x) (σ y) = σ (x * y) := h.encodes.mul
  obtain ⟨z', hz', hzz⟩ := h.inv z hz
  simp only [edOps, toaffE, edScaled, hz', hmul, mul_assoc, hzz, mul_one]

theorem CompleteEdwards.negE_edScaled (u v z : L) :
    (edOps P).negE (edScaled σ u v z) = edScaled σ (-u) v z := by
  have hneg : ∀ x, fneg P.fr (σ x) = σ (-x) := h.encodes.neg
  simp only [edOps, negEE, edScaled, hneg, neg_mul]

/-- The steps of `add_E` compute the sum (44_curve_group_law.md R329). -/
theorem CompleteEdwards.add_edScaled (u₁ v₁ z₁ u₂ v₂ z₂ : L) :
    (edOps P).add (edScaled σ u₁ v₁ z₁) (edScaled σ u₂ v₂ z₂) =
      edSum σ c d ((z₁ * z₂) ^ 2) u₁ v₁ u₂ v₂ := by
  simp only [edOps, addE, edScaled, edSum, h.a_eq, h.d_eq, h.encodes.mul, h.encodes.add, h.encodes.sub,
    EdExtended.mk.injEq, h.encodes.inj]
  refine ⟨?_, ?_, ?_, ?_⟩ <;> ring

/-- The steps of `dbl_E` compute the sum of the point with itself, every coordinate with the other sign
(44_curve_group_law.md R330). -/
theorem CompleteEdwards.dbl_edScaled {u v : L} (z : L) (hcurve : EdCurve c d u v) :
    (edOps P).dbl (edScaled σ u v z) = edSum σ c d (-z ^ 4) u v u v := by
  unfold EdCurve at hcurve
  have hm : 1 + d * u * u * v * v = c * c * u ^ 2 + v ^ 2 := by linear_combination -hcurve
  have hm' : 1 - d * u * u * v * v = 2 - (c * c * u ^ 2 + v ^ 2) := by linear_combination hcurve
  simp only [edOps, dblE, edScaled, edSum, h.a_eq, h.encodes.mul, h.encodes.add, h.encodes.sub, h.encodes.dbl,
    hm, hm', EdExtended.mk.injEq, h.encodes.inj]
  refine ⟨?_, ?_, ?_, ?_⟩ <;> ring

/-- The scale of a sum does not change the point. -/
theorem CompleteEdwards.eqE_edSum (s s' u₁ v₁ u₂ v₂ : L) :
    (edOps P).eqE (edSum σ c d s u₁ v₁ u₂ v₂) (edSum σ c d s' u₁ v₁ u₂ v₂) = true := by
  rw [edSum, edSum, h.eqE_iff]
  exact ⟨by ring, by ring⟩

/-! ### Equality, cancellation and neutrality -/

/-- PEQ's test on valid points is equality of their affine forms (44_curve_group_law.md R332, R336). -/
theorem CompleteEdwards.eqE_iff_toAff {p q : EdExtended} (hp : ValidExt P p) (hq : ValidExt P q) :
    (edOps P).eqE p q = true ↔ (edOps P).toAff p = (edOps P).toAff q := by
  obtain ⟨u₁, v₁, z₁, rfl, hz₁, -⟩ := h.edScaled_of_valid hp
  obtain ⟨u₂, v₂, z₂, rfl, hz₂, -⟩ := h.edScaled_of_valid hq
  rw [h.eqE_edScaled_iff hz₁ hz₂, h.toAff_edScaled u₁ v₁ hz₁, h.toAff_edScaled u₂ v₂ hz₂, Option.some.injEq,
    EdAffine.mk.injEq, h.encodes.inj, h.encodes.inj]

/-- P + (-P) is (0, λ, 0, λ) with λ not 0 (44_curve_group_law.md R336). -/
theorem CompleteEdwards.add_of_eqE_negE {p q : EdExtended} (hp : ValidExt P p) (hq : ValidExt P q)
    (heq : (edOps P).eqE q ((edOps P).negE p) = true) :
    ∃ l, l ≠ 0 ∧ (edOps P).add p q = ⟨0, l, 0, l⟩ := by
  obtain ⟨u, v, z₁, rfl, hz₁, hc₁⟩ := h.edScaled_of_valid hp
  obtain ⟨u₂, v₂, z₂, rfl, hz₂, hc₂⟩ := h.edScaled_of_valid hq
  rw [h.negE_edScaled, h.eqE_edScaled_iff hz₂ hz₁] at heq
  obtain ⟨rfl, rfl⟩ := heq
  obtain ⟨hminus, hplus⟩ := hc₁.denominators_ne_zero h.two_ne h.not_square hc₂
  have hzero : (0 : Fr) = σ 0 := h.encodes.zero
  have he : u * v₂ + v₂ * -u = 0 := by ring
  have hh : v₂ * v₂ - c * c * (u * -u) = 1 - d * u * -u * v₂ * v₂ := by
    unfold EdCurve at hc₁
    linear_combination hc₁
  have hscale : (z₁ * z₂) ^ 2 ≠ 0 := pow_ne_zero 2 (mul_ne_zero hz₁ hz₂)
  refine ⟨σ ((z₁ * z₂) ^ 2 * ((1 + d * u * -u * v₂ * v₂) * (1 - d * u * -u * v₂ * v₂))), ?_, ?_⟩
  · rw [hzero, ne_eq, h.encodes.inj]
    exact mul_ne_zero hscale (mul_ne_zero hplus hminus)
  · simp only [h.add_edScaled, edSum, he, hh, zero_mul, mul_zero, hzero, mul_comm (1 - (_ : L))]

/-- A representative of the identity is one of the affine point (0, 1) (44_curve_group_law.md R333). -/
theorem CompleteEdwards.eq_of_isidE {u v z : L} (hz : z ≠ 0) (hid : (edOps P).isidE (edScaled σ u v z) = true) :
    u = 0 ∧ v = 1 := by
  have hzero : (0 : Fr) = σ 0 := h.encodes.zero
  simp only [edOps, isidEE, edScaled, hzero, Bool.and_eq_true, beq_iff_eq, h.encodes.inj] at hid
  obtain ⟨hu, hv⟩ := hid
  exact ⟨(mul_eq_zero.1 hu).resolve_right hz, (mul_eq_right₀ hz).1 hv⟩

/-- O + P and P + O are P for every representative of O (44_curve_group_law.md R336). -/
theorem CompleteEdwards.add_identity {p o : EdExtended} (hp : ValidExt P p) (ho : ValidExt P o)
    (hid : (edOps P).isidE o = true) :
    (edOps P).eqE ((edOps P).add o p) p = true ∧ (edOps P).eqE ((edOps P).add p o) p = true := by
  obtain ⟨u, v, z, rfl, -, -⟩ := h.edScaled_of_valid hp
  obtain ⟨u₀, v₀, z₀, rfl, hz₀, -⟩ := h.edScaled_of_valid ho
  obtain ⟨rfl, rfl⟩ := h.eq_of_isidE hz₀ hid
  rw [h.add_edScaled, h.add_edScaled, edSum, edSum, edScaled, h.eqE_iff, h.eqE_iff]
  refine ⟨⟨?_, ?_⟩, ?_, ?_⟩ <;> ring

/-! ### The addition law -/

/-- The sum of two valid points satisfies the addition law, with nonzero denominators
(44_curve_group_law.md R320, R336). -/
theorem CompleteEdwards.addition_law {u₁ v₁ u₂ v₂ s : L} (hs : s ≠ 0) (h₁ : EdCurve c d u₁ v₁)
    (h₂ : EdCurve c d u₂ v₂) :
    let F := frOps P
    let r := edSum σ c d s u₁ v₁ u₂ v₂
    let m := F.mul P.edD (F.mul (F.mul (σ u₁) (σ u₂)) (F.mul (σ v₁) (σ v₂)))
    r.z ≠ 0 ∧ F.add F.one m ≠ 0 ∧ F.sub F.one m ≠ 0 ∧
      F.mul r.x (F.add F.one m) = F.mul r.z (F.add (F.mul (σ u₁) (σ v₂)) (F.mul (σ v₁) (σ u₂))) ∧
      F.mul r.y (F.sub F.one m) =
        F.mul r.z (F.sub (F.mul (σ v₁) (σ v₂)) (F.mul P.edA (F.mul (σ u₁) (σ u₂)))) ∧
      F.mul r.t r.z = F.mul r.x r.y := by
  have hzero : (0 : Fr) = σ 0 := h.encodes.zero
  have hassoc : d * (u₁ * u₂ * (v₁ * v₂)) = d * u₁ * u₂ * v₁ * v₂ := by ring
  obtain ⟨hminus, hplus⟩ := h₁.denominators_ne_zero h.two_ne h.not_square h₂
  simp only [edSum, h.a_eq, h.d_eq, hzero, h.encodes.one, h.encodes.mul, h.encodes.add, h.encodes.sub, hassoc,
    ne_eq, h.encodes.inj]
  refine ⟨mul_ne_zero hs (mul_ne_zero hminus hplus), hplus, hminus, ?_, ?_, ?_⟩ <;> ring

end

/-- ED of a conforming parameter set is complete (44_curve_group_law.md R335). -/
theorem ed_completeEdwards {P : ParamStore} (hc : Conforming P) :
    ∃ (L : Type) (_ : Field L) (σ : L → Fr) (c d : L), CompleteEdwards P σ c d := by
  have hP := paramLaws_of_ok hc.ok
  have hprime : Fact P.fr.p.toNat.Prime := ⟨hc.primeFr⟩
  have hF := baseOps_reads hP.fr
  obtain ⟨σ, hσ, h⟩ := hF.exists_encodes
  obtain ⟨r, hr, ha⟩ := hc.edwards.aSquare
  obtain ⟨c, rfl⟩ := (h.ok_iff r).1 hr
  refine ⟨ZMod P.fr.p.toNat, _, σ, c, residue P.fr P.edD, h, two_ne_zero_of_odd hP.fr.three_le,
    ha.symm.trans (h.mul c c), ?_, hF.not_square hP.edD hc.edwards.dNonSquare,
    fun x => h.exists_inv hF hσ fun a => finv_spec hP.fr hc.primeFr⟩
  obtain ⟨d, hd⟩ := (h.ok_iff P.edD).1 hP.edD
  rw [← hd, hσ]

end Sys2Proof.Machine
end

section
/-!
The group laws of 44_curve_group_law.md on valid points of a conforming parameter set (R332, R335, R336).
-/

namespace Sys2Proof.Machine

/-- Settles O38: in each group PEQ's test on valid representatives compares their affine points. -/
theorem equalityIsEqualityOfAffineForms : Obligations.EqualityIsEqualityOfAffineForms := by
  intro P hc
  obtain ⟨L₁, _, σ₁, β₁, h₁⟩ := g1_completeWeierstrass hc
  obtain ⟨L₂, _, σ₂, β₂, h₂⟩ := g2_completeWeierstrass hc
  obtain ⟨L₃, _, σ₃, c, d, h₃⟩ := ed_completeEdwards hc
  exact ⟨fun p q => h₁.eqE_iff_toAff, fun p q => h₂.eqE_iff_toAff, fun p q => h₃.eqE_iff_toAff⟩

/-- Settles O39: the cross terms of opposite points vanish, and a sum with a point at infinity or with a
representative of (0, 1) scales the other point. -/
theorem negativeCancelsAndIdentityIsNeutral : Obligations.NegativeCancelsAndIdentityIsNeutral := by
  intro P hc
  obtain ⟨L₁, _, σ₁, β₁, h₁⟩ := g1_completeWeierstrass hc
  obtain ⟨L₂, _, σ₂, β₂, h₂⟩ := g2_completeWeierstrass hc
  obtain ⟨L₃, _, σ₃, c, d, h₃⟩ := ed_completeEdwards hc
  exact ⟨fun p q o hp hq ho => ⟨h₁.add_of_eqE_negE hp hq, h₁.add_identity hp ho⟩,
    fun p q o hp hq ho => ⟨h₂.add_of_eqE_negE hp hq, h₂.add_identity hp ho⟩,
    fun p q o hp hq ho => ⟨h₃.add_of_eqE_negE hp hq, h₃.add_identity hp ho⟩⟩

/-- Settles O40: the formulas on representatives are those on the affine points, scaled, and these lie on
the chord or the tangent. -/
theorem weierstrassSumIsChordOrTangent : Obligations.WeierstrassSumIsChordOrTangent := by
  intro P hc
  obtain ⟨L₁, _, σ₁, β₁, h₁⟩ := g1_completeWeierstrass hc
  obtain ⟨L₂, _, σ₂, β₂, h₂⟩ := g2_completeWeierstrass hc
  exact ⟨fun p q u v hp hq hu hv hui hvi => ⟨h₁.chordSum_add hp hq hu hv hui hvi,
      fun huv => h₁.tangentSum_add hp hq hu (huv ▸ hv) hui, h₁.tangentSum_dbl hp hu hui⟩,
    fun p q u v hp hq hu hv hui hvi => ⟨h₂.chordSum_add hp hq hu hv hui hvi,
      fun huv => h₂.tangentSum_add hp hq hu (huv ▸ hv) hui, h₂.tangentSum_dbl hp hu hui⟩⟩

/-- Settles O41: the formulas on representatives are the addition law on the affine points, scaled; doubling
gives the same coordinates with another scale. -/
theorem edwardsSumIsTheAdditionLaw : Obligations.EdwardsSumIsTheAdditionLaw := by
  intro P hc p q u v hp hq hu hv
  obtain ⟨L, _, σ, c, d, h⟩ := ed_completeEdwards hc
  obtain ⟨u₁, v₁, z₁, rfl, hz₁, hc₁⟩ := h.edScaled_of_valid hp
  obtain ⟨u₂, v₂, z₂, rfl, hz₂, hc₂⟩ := h.edScaled_of_valid hq
  have hscale : (z₁ * z₂) ^ 2 ≠ 0 := pow_ne_zero 2 (mul_ne_zero hz₁ hz₂)
  rw [h.toAff_edScaled u₁ v₁ hz₁, Option.some.injEq] at hu
  rw [h.toAff_edScaled u₂ v₂ hz₂, Option.some.injEq] at hv
  subst hu hv
  have hadd : addE P (edScaled σ u₁ v₁ z₁) (edScaled σ u₂ v₂ z₂) =
      edSum σ c d ((z₁ * z₂) ^ 2) u₁ v₁ u₂ v₂ := h.add_edScaled u₁ v₁ z₁ u₂ v₂ z₂
  obtain ⟨hz, hplus, hminus, hx, hy, ht⟩ := h.addition_law hscale hc₁ hc₂
  simp only [hadd]
  refine ⟨hz, hplus, hminus, hx, hy, ht, fun heq => ?_⟩
  simp only [EdAffine.mk.injEq, h.encodes.inj] at heq
  obtain ⟨rfl, rfl⟩ := heq
  have hdbl : dblE P (edScaled σ u₁ v₁ z₁) = edSum σ c d (-z₁ ^ 4) u₁ v₁ u₁ v₁ := h.dbl_edScaled z₁ hc₁
  rw [hdbl]
  exact h.eqE_edSum _ _ u₁ v₁ u₁ v₁

/-- Settles O42: the premises of R335 hold for both groups of a conforming parameter set. -/
theorem weierstrassFunctionsKeepPointsValid : Obligations.WeierstrassFunctionsKeepPointsValid := by
  intro P hc
  have h₁ := g1Ops_keeps_points hc
  have h₂ := g2Ops_keeps_points hc
  exact ⟨fun p q hp hq => ⟨h₁.add p q hp hq, h₁.dbl p hp, h₁.negE p hp⟩,
    fun p q hp hq => ⟨h₂.add p q hp hq, h₂.dbl p hp, h₂.negE p hp⟩⟩

/-- Settles O43: the premises of R335 hold for ED of a conforming parameter set. -/
theorem edwardsFunctionsKeepPointsValid : Obligations.EdwardsFunctionsKeepPointsValid := by
  intro P hc p q hp hq
  have h := edOps_keeps_of_conforming hc
  exact ⟨h.add p q hp hq, h.dbl p hp, h.negE p hp⟩

end Sys2Proof.Machine
end

section
/-!
The curve commands on the point functions of 44_curve_group_law.md: PADD, PDBL, PNEG, TOPROJ, TOAFF and PEQ
(45_curve_instructions.md R370 to R376).
-/

namespace Sys2Proof.Machine

open Config

/-! ### PADD and PDBL -/

/-- Register `r` passes PADD's and PDBL's check for `t` and `operand` converts its value to `p`
(45_curve_instructions.md R370). -/
def GivesPoint {E : Type} (s : State) (t : TCode) (operand : Value → Except FaultCode E) (r : Reg) (p : E) :
    Prop :=
  Operand s r [t, affOf t] ∧ operand (s.reg r) = .ok p

theorem givesPoint_of_reg {E : Type} {s : State} {t : TCode} {operand : Value → Except FaultCode E} {r : Reg}
    {x : Value} {p : E} (ht : t ∈ projTypes) (hx : s.reg r = x) (htag : tagOf x = t ∨ tagOf x = affOf t)
    (hp : operand x = .ok p) : GivesPoint s t operand r p := by
  have hne : t ≠ .empty ∧ affOf t ≠ .empty := by
    simp only [projTypes, List.mem_cons, List.not_mem_nil, or_false] at ht
    obtain rfl | rfl | rfl := ht <;> decide
  subst hx
  refine ⟨⟨?_, by simpa using htag⟩, hp⟩
  obtain h | h := htag <;> rw [h]
  · exact hne.1
  · exact hne.2

theorem HoldsG1.givesPoint {s : State} {r : Reg} {p : ProjPoint Fq} (h : HoldsG1 s.params (s.reg r) p) :
    GivesPoint s .g1p (g1Operand s.params) r p := by
  obtain hr | ⟨u, hr, rfl⟩ := h
  · exact givesPoint_of_reg (by decide) hr (.inl rfl) rfl
  · exact givesPoint_of_reg (by decide) hr (.inr rfl) rfl

theorem HoldsG2.givesPoint {s : State} {r : Reg} {p : ProjPoint Fq2} (h : HoldsG2 s.params (s.reg r) p) :
    GivesPoint s .g2p (g2Operand s.params) r p := by
  obtain hr | ⟨u, hr, rfl⟩ := h
  · exact givesPoint_of_reg (by decide) hr (.inl rfl) rfl
  · exact givesPoint_of_reg (by decide) hr (.inr rfl) rfl

theorem HoldsEd.givesPoint {s : State} {r : Reg} {p : EdExtended} (h : HoldsEd s.params (s.reg r) p) :
    GivesPoint s .ede (edOperand s.params) r p := by
  obtain hr | ⟨u, hr, rfl⟩ := h
  · exact givesPoint_of_reg (by decide) hr (.inl rfl) rfl
  · exact givesPoint_of_reg (by decide) hr (.inr rfl) rfl

/-- PADD and PDBL on a group whose points `V` holds in registers: they convert the operands and apply the
group's functions (45_curve_instructions.md R371, R372). -/
theorem puts_of_padd_pdbl {A E : Type} {s : State} {t : TCode} {operand : Value → Except FaultCode E}
    {V : E → Value} {G : GroupOps A E} {d a b : Reg} {p q : E} (ht : t ∈ projTypes)
    (hadd : ∀ x y, pointBinary s.params (fun _ _ G => G.add) t x y =
      (operand x).bind fun p => (operand y).map fun q => V (G.add p q))
    (hdbl : ∀ x, pointUnary s.params (fun _ _ G => G.dbl) t x = (operand x).map fun p => V (G.dbl p))
    (ha : GivesPoint s t operand a p) (hb : GivesPoint s t operand b q) :
    (∃ u, exec (.padd t d a b) s = .next u ∧ Puts d (V (G.add p q)) s u) ∧
      ∃ u, exec (.pdbl t d a) s = .next u ∧ Puts d (V (G.dbl p)) s u := by
  obtain ⟨hopa, hp⟩ := ha
  obtain ⟨hopb, hq⟩ := hb
  exact ⟨Commits.puts ⟨ht, hopa, hopb, _, by rw [hadd, hp, hq]; rfl, rfl⟩,
    Commits.puts ⟨ht, hopa, _, by rw [hdbl, hp]; rfl, rfl⟩⟩

/-- Settles O32: the operands' conversions are `HoldsG1`, `HoldsG2` and `HoldsEd`, and each group's functions
are its formulas. -/
theorem addAndDoublePointsByTheFormulas : Obligations.AddAndDoublePointsByTheFormulas := by
  intro s d a b
  refine ⟨fun p q hp hq => ?_, fun p q hp hq => ?_, fun p q hp hq => ?_⟩
  · exact puts_of_padd_pdbl (G := g1Ops s.params) (by decide) (fun _ _ => rfl) (fun _ => rfl) hp.givesPoint
      hq.givesPoint
  · exact puts_of_padd_pdbl (G := g2Ops s.params) (by decide) (fun _ _ => rfl) (fun _ => rfl) hp.givesPoint
      hq.givesPoint
  · exact puts_of_padd_pdbl (G := edOps s.params) (by decide) (fun _ _ => rfl) (fun _ => rfl) hp.givesPoint
      hq.givesPoint

/-! ### PNEG -/

section

variable {s : State} {t : TCode} {d a : Reg} {x : Value} (ht : t ∈ pointTypes) (hx : s.reg a = x)
  (htag : tagOf x = t)

include ht hx htag

theorem puts_of_pneg {y : Value} (hy : pointNegate s.params x = .ok (some y)) :
    ∃ u, exec (.pneg t d a) s = .next u ∧ Puts d y s u :=
  Commits.puts ⟨ht, operand_of_reg ht (by decide) hx htag, some y, hx ▸ hy, rfl⟩

theorem givesNone_of_pneg (hy : pointNegate s.params x = .ok none) :
    ∃ u, exec (.pneg t d a) s = .next u ∧ GivesNone d s u :=
  Commits.givesNone ⟨ht, operand_of_reg ht (by decide) hx htag, none, hx ▸ hy, rfl⟩

/-- PNEG of an affine point: None for the identity, else the negative. -/
theorem pneg_of_ite {y : Value} {c : Prop} [Decidable c]
    (hy : pointNegate s.params x = .ok (if c then none else some y)) :
    ∃ u, exec (.pneg t d a) s = .next u ∧ if c then GivesNone d s u else Puts d y s u := by
  by_cases hc : c
  · simp only [if_pos hc] at hy ⊢
    exact givesNone_of_pneg ht hx htag hy
  · simp only [if_neg hc] at hy ⊢
    exact puts_of_pneg ht hx htag hy

end

theorem map_negWA {K B : Type} (F : FieldOps K) (V : AffinePoint K → B) (u : AffinePoint K) :
    (negWA F u).map V = if u.inf then none else some (V ⟨u.x, F.neg u.y, false⟩) := by
  unfold negWA
  split <;> rfl

theorem map_negEA {B : Type} (P : ParamStore) (V : EdAffine → B) (u : EdAffine) :
    (negEA P u).map V = if u = ⟨0, P.fr.one⟩ then none else some (V ⟨fneg P.fr u.x, u.y⟩) := by
  simp only [negEA, edAffine_ext_iff]
  split <;> rfl

/-- Settles O33: the negative of each form, None being the affine identity's. -/
theorem negatePointOrNone : Obligations.NegatePointOrNone := by
  intro s d a
  refine ⟨fun p hp => ?_, fun p hp => ?_, fun p hp => ?_, fun p hp => ?_, fun p hp => ?_, fun p hp => ?_⟩
  · exact puts_of_pneg (t := .g1p) (by decide) hp rfl rfl
  · exact puts_of_pneg (t := .g2p) (by decide) hp rfl rfl
  · exact puts_of_pneg (t := .ede) (by decide) hp rfl rfl
  · exact pneg_of_ite (t := .g1a) (by decide) hp rfl (congrArg Except.ok (map_negWA (fqOps s.params) Value.g1a p))
  · exact pneg_of_ite (t := .g2a) (by decide) hp rfl (congrArg Except.ok (map_negWA (fq2Ops s.params) Value.g2a p))
  · exact pneg_of_ite (t := .eda) (by decide) hp rfl (congrArg Except.ok (map_negEA s.params Value.eda p))

/-! ### TOPROJ and back -/

section

variable {w : Nat} {F : BaseField w} (hF : BaseFieldLaws F)

include hF

theorem one_ne_zero_of_laws : F.one ≠ 0 := fun h => by
  have hone := valOf_one hF
  rw [h, valOf_zero hF] at hone
  cases hone

/-- The power a^(P_F - 2) of 1 is 1, on a modulus that is no prime too (41_field_kernel.md R211). -/
theorem finv_one : finv F F.one = some F.one := by
  have hlt : F.p.toNat - 2 < 2 ^ w := (Nat.sub_le _ _).trans_lt F.p.isLt
  obtain ⟨hok, hpow⟩ := fpow_spec hF F.one w (F.p.toNat - 2)
  rw [finv, if_neg (one_ne_zero_of_laws hF), Option.some.injEq]
  refine residue_inj hF hok (one_canonical hF) ?_
  rw [hpow hlt, residue_one hF, one_pow]

theorem montMul_one {x : BitVec w} (hx : canonical F x = true) : montMul F x F.one = x :=
  (baseOps_reads hF).ringLaws.mul_one x hx

end

theorem baseOps_inv_zero {w : Nat} (F : BaseField w) : (baseOps F).inv (baseOps F).zero = none := finv_zero F

/-- The norm of 1 is 1, so that it is its own inverse in FQ2 (42_extension_tower.md R244). -/
theorem inv2_one {P : ParamStore} (hP : ParamLaws P) : inv2 P (one2 P) = some (one2 P) := by
  have hone : residue2 P (one2 P) = 1 := (fq2Ops_reads hP).one
  have hnorm : norm2 P (one2 P) = P.fq.one := by
    refine residue_inj hP.fq (fsub_canonical hP.fq _ _) (one_canonical hP.fq) ?_
    rw [residue_norm2 hP (one2_canonical hP), hone, QuadraticAlgebra.norm_one, residue_one hP.fq]
  have hneg : fneg P.fq 0 = 0 := if_pos rfl
  simp only [inv2, hnorm, finv_one hP.fq]
  simp only [one2, montMul_one hP.fq (one_canonical hP.fq), montMul_one hP.fq (zero_canonical hP.fq), hneg]

/-- TOAFF's function undoes TOPROJ's where 1 is its own inverse (44_curve_group_law.md R325, R326). -/
theorem toaffW_toprojW {K : Type} [DecidableEq K] {F : FieldOps K} {ok : K → Bool} {u : AffinePoint K}
    (h : RingLaws F fun a => ok a = true) (hzero : F.inv F.zero = none) (hone : F.inv F.one = some F.one)
    (hu : affineOk F ok u = true) : toaffW F (toprojW F u) = u := by
  obtain ⟨hx, hy, hinf⟩ := affineOk_iff.1 hu
  have hne : F.isZero F.one = false := by
    rw [← Bool.not_eq_true, h.isZero_iff]
    intro h10
    rw [h10, hzero] at hone
    cases hone
  obtain ⟨x, y, inf⟩ := u
  cases inf with
  | true =>
    obtain ⟨rfl, rfl⟩ : x = F.zero ∧ y = F.one := hinf rfl
    simp [toprojW, toaffW, (h.isZero_iff _).2]
  | false => simp [toprojW, toaffW, hne, hone, h.mul_one _ hx, h.mul_one _ hy]

/-- The Edwards form of `toaffW_toprojW`. -/
theorem toaffE_toprojE {P : ParamStore} (hP : ParamLaws P) {u : EdAffine} (hu : edAffineOk P u = true) :
    toaffE P (toprojE P u) = some u := by
  obtain ⟨hx, hy⟩ := edAffineOk_iff.1 hu
  simp only [toaffE, toprojE, finv_one hP.fr, montMul_one hP.fr hx, montMul_one hP.fr hy]

/-- TOPROJ and then TOAFF of its result put the affine point again, when TOAFF's function undoes TOPROJ's
on it. -/
theorem puts_of_toproj_toaff {s : State} {t : TCode} {d e a : Reg} {x y : Value} (ht : t ∈ projTypes)
    (hx : s.reg a = x) (htag : tagOf x = affOf t) (hy : pointToProj s.params x = .ok y)
    (hback : pointToAff s.params y = .ok (some x)) :
    ∃ u u', exec (.toproj t d a) s = .next u ∧ Puts d y s u ∧
      exec (.toaff (affOf t) e d) u = .next u' ∧ Puts e x u u' := by
  have hmem : affOf t ∈ affTypes ∧ affOf t ∈ allTypes ∧ t ∈ allTypes ∧ projOf (affOf t) = t := by
    simp only [projTypes, List.mem_cons, List.not_mem_nil, or_false] at ht
    obtain rfl | rfl | rfl := ht <;> decide
  obtain ⟨haff, hall, htall, hproj⟩ := hmem
  obtain ⟨y', hy', htagy⟩ := pointToProj_ok s.params ht htag
  obtain rfl : y = y' := Except.ok.inj (hy.symm.trans hy')
  obtain ⟨u, hu, hputs⟩ := Commits.puts (i := .toproj t d a) ⟨ht, operand_of_reg hall (by decide) hx htag, y,
    by rw [hx, hy], rfl⟩
  have ⟨hretires, hd, _⟩ := hputs
  obtain ⟨u', hu', hputs'⟩ := Commits.puts (i := .toaff (affOf t) e d) (s := u)
    ⟨haff, hproj.symm ▸ operand_of_reg htall (by decide) hd htagy, some x,
      by rw [hd, hretires.params, hback], rfl⟩
  exact ⟨u, u', hu, hputs, hu', hputs'⟩

/-- Settles O34: TOPROJ's point has Z = 1 or is the identity (0, 1, 0), and 1 is its own inverse. -/
theorem toAffineUndoesToProjective : Obligations.ToAffineUndoesToProjective := by
  intro s d e a hparams hok
  have hP := paramLaws_of_ok hparams
  refine ⟨fun u hu => ?_, fun u hu => ?_, fun u hu => ?_⟩ <;> rw [hu] at hok
  · have hback := toaffW_toprojW (baseOps_reads hP.fq).ringLaws (baseOps_inv_zero _) (finv_one hP.fq) hok
    exact puts_of_toproj_toaff (t := .g1p) (by decide) hu rfl rfl
      (congrArg (fun u => Except.ok (some (Value.g1a u))) hback)
  · have hback := toaffW_toprojW (fq2Ops_reads hP).ringLaws (inv2_zero hP) (inv2_one hP) hok
    exact puts_of_toproj_toaff (t := .g2p) (by decide) hu rfl rfl
      (congrArg (fun u => Except.ok (some (Value.g2a u))) hback)
  · have hback := toaffE_toprojE hP hok
    exact puts_of_toproj_toaff (t := .ede) (by decide) hu rfl rfl
      (congrArg (fun o : Option EdAffine => Except.ok (o.map Value.eda)) hback)

/-! ### TOAFF -/

/-- A product with an inverse of the other factor divides by it. -/
theorem RingLaws.mul_inv_mul {K : Type} {F : FieldOps K} {ok : K → Prop} (h : RingLaws F ok) {x z z' : K}
    (hx : ok x) (hz : ok z) (hz' : ok z') (hone : F.mul z z' = F.one) : F.mul (F.mul x z') z = x := by
  rw [h.mul_assoc _ _ _ hx hz' hz, h.mul_comm _ _ hz' hz, hone, h.mul_one _ hx]

/-- The affine form of a projective point: the flagged identity when Z = 0, else (X/Z, Y/Z)
(44_curve_group_law.md R326). -/
theorem toaffW_spec {K : Type} [DecidableEq K] {F : FieldOps K} {ok : K → Bool}
    (h : RingLaws F fun a => ok a = true) (hinv : F.Inverts fun a => ok a = true) {p : ProjPoint K}
    (hp : projOk ok p = true) :
    if p.z = F.zero then toaffW F p = ⟨F.zero, F.one, true⟩
    else (toaffW F p).inf = false ∧ F.mul (toaffW F p).x p.z = p.x ∧ F.mul (toaffW F p).y p.z = p.y := by
  obtain ⟨hx, hy, hz⟩ := projOk_iff.1 hp
  by_cases h0 : p.z = F.zero
  · rw [if_pos h0, toaffW, (h.isZero_iff _).2 h0]
  · obtain ⟨z', hz', hzok, hone⟩ := hinv.of_ne_zero _ hz h0
    have hne : F.isZero p.z = false := Bool.eq_false_iff.2 (mt (h.isZero_iff _).1 h0)
    have haff : toaffW F p = ⟨F.mul p.x z', F.mul p.y z', false⟩ := by rw [toaffW, hne, hz']
    rw [if_neg h0, haff]
    exact ⟨rfl, h.mul_inv_mul hx hz hzok hone, h.mul_inv_mul hy hz hzok hone⟩

section

variable {s : State} {t : TCode} {d a : Reg} {x : Value} (ht : t ∈ affTypes) (hx : s.reg a = x)
  (htag : tagOf x = projOf t)

include ht hx htag

theorem operand_of_toaff : Operand s a [projOf t] := by
  refine operand_of_tag (mem_allTypes_of_point ?_) (hx ▸ htag)
  simp only [affTypes, List.mem_cons, List.not_mem_nil, or_false] at ht
  obtain rfl | rfl | rfl := ht <;> decide

theorem puts_of_toaff {y : Value} (hy : pointToAff s.params x = .ok (some y)) :
    ∃ u, exec (.toaff t d a) s = .next u ∧ Puts d y s u :=
  Commits.puts ⟨ht, operand_of_toaff ht hx htag, some y, hx ▸ hy, rfl⟩

theorem givesNone_of_toaff (hy : pointToAff s.params x = .ok none) :
    ∃ u, exec (.toaff t d a) s = .next u ∧ GivesNone d s u :=
  Commits.givesNone ⟨ht, operand_of_toaff ht hx htag, none, hx ▸ hy, rfl⟩

end

/-- Settles O35: on a conforming parameter set every Z but 0 has its inverse, and the inverse of 0 is None. -/
theorem toAffineDividesByZ : Obligations.ToAffineDividesByZ := by
  intro s d a hc hok
  have hT := towerField_of_conforming hc
  have hP := hT.laws
  refine ⟨fun p hp => ?_, fun p hp => ?_, fun p hp => ?_⟩ <;> rw [hp] at hok
  · obtain ⟨t, ht, hputs⟩ := puts_of_toaff (t := .g1a) (d := d) (by decide) hp rfl rfl
    exact ⟨t, _, ht, hputs,
      toaffW_spec (baseOps_reads hP.fq).ringLaws (baseOps_inverts hP.fq hc.primeFq) hok⟩
  · obtain ⟨t, ht, hputs⟩ := puts_of_toaff (t := .g2a) (d := d) (by decide) hp rfl rfl
    exact ⟨t, _, ht, hputs, toaffW_spec (fq2Ops_reads hP).ringLaws hT.fq2Ops_inverts hok⟩
  · obtain ⟨hx, hy, -, hz⟩ := edExtendedOk_iff.1 hok
    have hlaws := (baseOps_reads hP.fr).ringLaws
    have hinv := baseOps_inverts hP.fr hc.primeFr
    have hdisp : pointToAff s.params (.ede p) = .ok ((toaffE s.params p).map .eda) := rfl
    by_cases h0 : p.z = 0
    · simp only [if_pos h0]
      refine givesNone_of_toaff (by decide) hp rfl ?_
      rw [hdisp, toaffE, h0, finv_zero, Option.map_none]
    · simp only [if_neg h0]
      obtain ⟨z', hz', hzok, hone⟩ := hinv.of_ne_zero _ hz h0
      have hz' : finv s.params.fr p.z = some z' := hz'
      rw [toaffE, hz', Option.map_some] at hdisp
      obtain ⟨t, ht, hputs⟩ := puts_of_toaff (t := .eda) (d := d) (by decide) hp rfl hdisp
      exact ⟨t, ht, _, hputs, hlaws.mul_inv_mul hx hz hzok hone, hlaws.mul_inv_mul hy hz hzok hone⟩

/-! ### PEQ -/

/-- PEQ on registers of one form puts what the form's test says (45_curve_instructions.md R376). -/
theorem puts_of_peq {s : State} {t : TCode} {d a b : Reg} {x y : Value} {z : Bool} {c : Prop}
    (ht : t ∈ pointTypes) (hx : s.reg a = x) (hy : s.reg b = y) (htx : tagOf x = t) (hty : tagOf y = t)
    (hz : pointEqual s.params x y = .ok z) (hc : z = true ↔ c) :
    ∃ u r, exec (.peq t d a b) s = .next u ∧ Puts d (.bool r) s u ∧ (r = true ↔ c) := by
  obtain ⟨u, hu, hputs⟩ := Commits.puts (i := .peq t d a b) ⟨ht, operand_of_reg ht (by decide) hx htx,
    operand_of_reg ht (by decide) hy hty, z, by rw [hx, hy, hz], rfl⟩
  exact ⟨u, z, hu, hputs, hc⟩

theorem eqWP_iff {K : Type} {F : FieldOps K} (h : ∀ a b, F.eq a b = true ↔ a = b) (p q : ProjPoint K) :
    eqWP F p q = true ↔ F.mul p.x q.z = F.mul q.x p.z ∧ F.mul p.y q.z = F.mul q.y p.z := by
  simp only [eqWP, Bool.and_eq_true, h]

theorem eqWA_iff {K : Type} {F : FieldOps K} (h : ∀ a b, F.eq a b = true ↔ a = b) (p q : AffinePoint K) :
    eqWA F p q = true ↔ p.inf = q.inf ∧ (p.inf = true ∨ (p.x = q.x ∧ p.y = q.y)) := by
  simp only [eqWA, Bool.and_eq_true, Bool.or_eq_true, beq_iff_eq, h]

/-- Settles O36: the tests of `eqWP_iff` and `eqWA_iff`, and of the two Edwards forms. -/
theorem pointEqualityCrossMultiplies : Obligations.PointEqualityCrossMultiplies := by
  intro s d a b
  have hfq : ∀ a b, (fqOps s.params).eq a b = true ↔ a = b := fun _ _ => beq_iff_eq
  have hfq2 : ∀ a b, (fq2Ops s.params).eq a b = true ↔ a = b := fun _ _ => beq_iff_eq
  refine ⟨fun p q hp hq => ?_, fun p q hp hq => ?_, fun p q hp hq => ?_, fun p q hp hq => ?_,
    fun p q hp hq => ?_, fun p q hp hq => ?_⟩
  · exact puts_of_peq (by decide) hp hq rfl rfl rfl (eqWP_iff hfq p q)
  · exact puts_of_peq (by decide) hp hq rfl rfl rfl (eqWP_iff hfq2 p q)
  · refine puts_of_peq (by decide) hp hq rfl rfl rfl ?_
    simp only [edOps, eqEE, frOps, baseOps, Bool.and_eq_true, beq_iff_eq]
  · exact puts_of_peq (by decide) hp hq rfl rfl rfl (eqWA_iff hfq p q)
  · exact puts_of_peq (by decide) hp hq rfl rfl rfl (eqWA_iff hfq2 p q)
  · refine puts_of_peq (by decide) hp hq rfl rfl rfl ?_
    simp only [edOps, eqEA, Bool.and_eq_true, beq_iff_eq]

end Sys2Proof.Machine
end

section
/-!
ISID and ONCURVE on canonical values: the curve equations of 44_curve_group_law.md R334 in powers of the
coordinates, and in integers modulo P_FQ and P_FR (45_curve_instructions.md R377, R378).
-/

namespace Sys2Proof.Machine

open Config

/-! ### The curve equations in powers -/

section

variable {K : Type} {F : FieldOps K} {ok : K → Bool} {b : K} (h : RingLaws F fun a => ok a = true)

include h

theorem RingLaws.powOf_two {x : K} (hx : ok x = true) : powOf F x 2 = F.sqr x := by
  rw [powOf, powOf, powOf, h.mul_comm _ _ h.one_ok hx, h.mul_one x hx, h.sqr_eq x hx]

theorem RingLaws.powOf_three {x : K} (hx : ok x = true) : powOf F x 3 = F.mul (F.sqr x) x := by
  rw [powOf, h.powOf_two hx]

/-- The affine curve test is y² = x³ + b (44_curve_group_law.md R334). -/
theorem onCurveWA_iff_powOf {u : AffinePoint K} (hx : ok u.x = true) (hy : ok u.y = true) :
    onCurveWA F b u = true ↔ u.inf = true ∨ powOf F u.y 2 = F.add (powOf F u.x 3) b := by
  rw [onCurveWA, Bool.or_eq_true, h.eq_iff, h.powOf_two hy, h.powOf_three hx]

/-- The projective curve test is y²·z = x³ + b·z³, and x = 0 with y not 0 at z = 0
(44_curve_group_law.md R334). -/
theorem onCurveWP_iff_powOf [DecidableEq K] {p : ProjPoint K} (hp : projOk ok p = true) :
    onCurveWP F b p = true ↔ if p.z = F.zero then p.x = F.zero ∧ p.y ≠ F.zero
      else F.mul (powOf F p.y 2) p.z = F.add (powOf F p.x 3) (F.mul b (powOf F p.z 3)) := by
  obtain ⟨hx, hy, hz⟩ := projOk_iff.1 hp
  rw [onCurveWP, h.powOf_two hy, h.powOf_three hx, h.powOf_three hz]
  by_cases h0 : p.z = F.zero
  · rw [if_pos ((h.isZero_iff _).2 h0), if_pos h0, Bool.and_eq_true, h.isZero_iff, Bool.not_eq_true',
      Bool.eq_false_iff, ne_eq, h.isZero_iff]
  · rw [if_neg (mt (h.isZero_iff _).1 h0), if_neg h0, h.eq_iff]

end

/-! ### The curve equations in integers -/

section

variable {w : Nat} {F : BaseField w} (hF : BaseFieldLaws F)

include hF

theorem valOf_eq_zero_iff {m : BitVec w} (hm : canonical F m = true) : valOf F m = 0 ↔ m = 0 := by
  rw [← valOf_zero hF, valOf_inj hF hm (zero_canonical hF)]

theorem valOf_eq_one_iff {m : BitVec w} (hm : canonical F m = true) : valOf F m = 1 ↔ m = F.one := by
  rw [← valOf_one hF, valOf_inj hF hm (one_canonical hF)]

/-- Two canonical elements are equal when integers of their residues are congruent (41_field_kernel.md
R201). -/
theorem eq_iff_of_residues {m n : BitVec w} {u v : Nat} (hm : canonical F m = true)
    (hn : canonical F n = true) (hu : residue F m = u) (hv : residue F n = v) :
    m = n ↔ u % F.p.toNat = v % F.p.toNat := by
  rw [← valOf_inj hF hm hn, valOf_eq_mod hF hu, valOf_eq_mod hF hv]

theorem residue_fsqr {m : BitVec w} (hm : canonical F m = true) : residue F (fsqr F m) = residue F m ^ 2 := by
  rw [fsqr, residue_montMul hF m hm, sq]

theorem fsqr_canonical {m : BitVec w} (hm : canonical F m = true) : canonical F (fsqr F m) = true :=
  montMul_canonical hF m hm

/-- The affine curve test in integers (44_curve_group_law.md R334). -/
theorem onCurveWA_iff_valOf {b : BitVec w} {u : AffinePoint (BitVec w)} (hx : canonical F u.x = true)
    (hy : canonical F u.y = true) : onCurveWA (baseOps F) b u = true ↔ u.inf = true ∨
      valOf F u.y ^ 2 % F.p.toNat = (valOf F u.x ^ 3 + valOf F b) % F.p.toNat := by
  obtain ⟨-, hx3⟩ := (baseOps_reads hF).powOf hx 3
  obtain ⟨hok, hy2⟩ := (baseOps_reads hF).powOf hy 2
  refine (onCurveWA_iff_powOf (baseOps_reads hF).ringLaws hx hy).trans (or_congr_right
    (eq_iff_of_residues hF hok (fadd_canonical hF _ _) ?_ ((residue_fadd hF _ _).trans ?_))) <;>
    simp only [hy2, hx3, Nat.cast_add, Nat.cast_pow, natCast_valOf hF]

/-- The projective curve test in integers (44_curve_group_law.md R334). -/
theorem onCurveWP_iff_valOf {b : BitVec w} {p : ProjPoint (BitVec w)} (hb : canonical F b = true)
    (hp : projOk (canonical F) p = true) : onCurveWP (baseOps F) b p = true ↔
      if valOf F p.z = 0 then valOf F p.x = 0 ∧ valOf F p.y ≠ 0
      else valOf F p.y ^ 2 * valOf F p.z % F.p.toNat =
        (valOf F p.x ^ 3 + valOf F b * valOf F p.z ^ 3) % F.p.toNat := by
  obtain ⟨hx, hy, hz⟩ := projOk_iff.1 hp
  obtain ⟨-, hx3⟩ := (baseOps_reads hF).powOf hx 3
  obtain ⟨hok, hy2⟩ := (baseOps_reads hF).powOf hy 2
  obtain ⟨-, hz3⟩ := (baseOps_reads hF).powOf hz 3
  rw [onCurveWP_iff_powOf (baseOps_reads hF).ringLaws hp]
  simp only [valOf_eq_zero_iff hF hx, valOf_eq_zero_iff hF hy, valOf_eq_zero_iff hF hz, ne_eq]
  refine iff_of_eq (if_congr Iff.rfl rfl (propext (eq_iff_of_residues hF (montMul_canonical hF _ hok)
    (fadd_canonical hF _ _) ((residue_montMul hF _ hok).trans ?_) ((residue_fadd hF _ _).trans ?_))))
  · simp only [hy2, Nat.cast_mul, Nat.cast_pow, natCast_valOf hF]
  · refine (congrArg _ (residue_montMul hF _ hb)).trans ?_
    simp only [hx3, hz3, Nat.cast_add, Nat.cast_mul, Nat.cast_pow, natCast_valOf hF]

end

section

variable {P : ParamStore} (hP : ParamLaws P)

include hP

/-- The affine Edwards test in integers (44_curve_group_law.md R334). -/
theorem onCurveEA_iff_valOf {u : EdAffine} (hu : edAffineOk P u = true) : onCurveEA P u = true ↔
    (valOf P.fr P.edA * valOf P.fr u.x ^ 2 + valOf P.fr u.y ^ 2) % P.fr.p.toNat =
      (1 + valOf P.fr P.edD * valOf P.fr u.x ^ 2 * valOf P.fr u.y ^ 2) % P.fr.p.toNat := by
  obtain ⟨hx, hy⟩ := edAffineOk_iff.1 hu
  have hF := hP.fr
  refine beq_iff_eq.trans
    (eq_iff_of_residues hF (fadd_canonical hF _ _) (fadd_canonical hF _ _) ?_ ?_) <;>
    simp only [frOps, baseOps, residue_fadd hF, residue_montMul hF _ hP.edA, residue_montMul hF _ hP.edD,
      residue_montMul hF _ (montMul_canonical hF _ hP.edD), residue_fsqr hF hx, residue_fsqr hF hy,
      residue_one hF, Nat.cast_add, Nat.cast_mul, Nat.cast_pow, Nat.cast_one, natCast_valOf hF]

/-- The extended Edwards test in integers (44_curve_group_law.md R334). -/
theorem onCurveEE_iff_valOf {p : EdExtended} (hp : edExtendedOk P p = true) : onCurveEE P p = true ↔
    valOf P.fr p.z ≠ 0 ∧
      valOf P.fr p.x * valOf P.fr p.y % P.fr.p.toNat = valOf P.fr p.t * valOf P.fr p.z % P.fr.p.toNat ∧
      (valOf P.fr P.edA * valOf P.fr p.x ^ 2 + valOf P.fr p.y ^ 2) * valOf P.fr p.z ^ 2 % P.fr.p.toNat =
        (valOf P.fr p.z ^ 4 + valOf P.fr P.edD * valOf P.fr p.x ^ 2 * valOf P.fr p.y ^ 2) %
          P.fr.p.toNat := by
  obtain ⟨hx, hy, ht, hz⟩ := edExtendedOk_iff.1 hp
  have hF := hP.fr
  simp only [onCurveEE, frOps, baseOps, Bool.and_eq_true, Bool.not_eq_true', beq_eq_false_iff_ne, beq_iff_eq,
    and_assoc]
  refine and_congr (not_congr (valOf_eq_zero_iff hF hz).symm) (and_congr
    (eq_iff_of_residues hF (montMul_canonical hF _ hx) (montMul_canonical hF _ ht) ?_ ?_)
    (eq_iff_of_residues hF (montMul_canonical hF _ (fadd_canonical hF _ _)) (fadd_canonical hF _ _) ?_ ?_)) <;>
    simp only [residue_fadd hF, residue_montMul hF _ hx, residue_montMul hF _ ht, residue_montMul hF _ hP.edA,
      residue_montMul hF _ hP.edD, residue_montMul hF _ (fadd_canonical hF _ _),
      residue_montMul hF _ (montMul_canonical hF _ hP.edD), residue_fsqr hF hx, residue_fsqr hF hy,
      residue_fsqr hF hz, residue_fsqr hF (fsqr_canonical hF hz), ← pow_mul, Nat.reduceMul, Nat.cast_add,
      Nat.cast_mul, Nat.cast_pow, natCast_valOf hF]

end

/-! ### ISID and ONCURVE -/

/-- Settles O37: the identity tests compare canonical elements, and each curve test is its equation. -/
theorem identityAndCurveTests : Obligations.IdentityAndCurveTests := by
  intro s ty d a hparams hty htag hok P p r B A D F
  have hP := paramLaws_of_ok hparams
  have hop := operand_of_tag (mem_allTypes_of_point hty) htag
  obtain ⟨i, hi⟩ := pointIsId_ok P (htag ▸ hty)
  obtain ⟨c, hc⟩ := pointOnCurve_ok P (htag ▸ hty)
  obtain ⟨t, ht, hputs⟩ := Commits.puts (i := .isid ty d a) ⟨hty, hop, i, hi, rfl⟩
  obtain ⟨t', ht', hputs'⟩ := Commits.puts (i := .oncurve ty d a) ⟨hty, hop, c, hc, rfl⟩
  refine ⟨t, i, t', c, ht, hputs, ht', hputs', ?_⟩
  rw [← htag] at hty
  obtain ⟨u, hu⟩ | ⟨u, hu⟩ | ⟨u, hu⟩ | ⟨u, hu⟩ | ⟨u, hu⟩ | ⟨u, hu⟩ := tagOf_mem_pointTypes hty <;>
    rw [hu] at hok hi hc ⊢ <;> cases hi <;> cases hc
  · obtain ⟨hx, hy, -⟩ := affineOk_iff.1 hok
    exact ⟨Iff.rfl, onCurveWA_iff_valOf hP.fq hx hy⟩
  · obtain ⟨-, -, hz⟩ := projOk_iff.1 hok
    exact ⟨beq_iff_eq.trans (valOf_eq_zero_iff hP.fq hz).symm, onCurveWP_iff_valOf hP.fq hP.bG1 hok⟩
  · obtain ⟨hx, hy, -⟩ := affineOk_iff.1 hok
    exact ⟨Iff.rfl, onCurveWA_iff_powOf (fq2Ops_reads hP).ringLaws hx hy⟩
  · exact ⟨beq_iff_eq, onCurveWP_iff_powOf (fq2Ops_reads hP).ringLaws hok⟩
  · obtain ⟨hx, hy⟩ := edAffineOk_iff.1 hok
    refine ⟨?_, onCurveEA_iff_valOf hP hok⟩
    simp only [edOps, isidEA, Bool.and_eq_true, beq_iff_eq]
    rw [valOf_eq_zero_iff hP.fr hx, valOf_eq_one_iff hP.fr hy]
  · obtain ⟨hx, hy, -, hz⟩ := edExtendedOk_iff.1 hok
    refine ⟨?_, onCurveEE_iff_valOf hP hok⟩
    simp only [edOps, isidEE, Bool.and_eq_true, beq_iff_eq]
    rw [valOf_eq_zero_iff hP.fr hx, valOf_inj hP.fr hy hz]

end Sys2Proof.Machine
end

section
/-!
NAF recoding (46_scalar_multiplier.md R400, R401): the digits of k are non-adjacent and sum to k, and no other
digits of their number do.
-/

namespace Sys2Proof.Machine

/-! ### One digit -/

/-- A digit and what it leaves make the number up again (46_scalar_multiplier.md R400). -/
theorem nafInt_add_two_mul_nafRest (k : Nat) : nafInt (nafDigit k) + 2 * (nafRest k : Int) = k := by
  unfold nafRest nafDigit
  split_ifs <;> simp only [nafInt] <;> omega

/-- The choice of 2 - (k mod 4) makes the digit after a nonzero one 0 (46_scalar_multiplier.md R400). -/
theorem nafDigit_eq_zero_or (k : Nat) : nafDigit k = .zero ∨ nafDigit (nafRest k) = .zero := by
  by_cases hodd : k % 2 = 1
  · have heven : nafRest k % 2 ≠ 1 := by
      unfold nafRest nafDigit
      split_ifs <;> simp only <;> omega
    exact .inr (if_neg heven)
  · exact .inl (if_neg hodd)

theorem nafRest_le {n k : Nat} (h : k ≤ 2 ^ (n + 1)) : nafRest k ≤ 2 ^ n := by
  have := nafInt_add_two_mul_nafRest k
  unfold nafDigit at this
  split_ifs at this <;> simp only [nafInt] at this <;> omega

/-! ### The digits of a number -/

@[simp] theorem length_nafDigits (n k : Nat) : (nafDigits n k).length = n := by
  induction n generalizing k with
  | zero => rfl
  | succ n ih => simp [nafDigits, ih]

theorem nafDigits_zero (n : Nat) : nafDigits n 0 = List.replicate n .zero := by
  induction n with
  | zero => rfl
  | succ n ih => exact congrArg (NafDigit.zero :: ·) ih

/-- One digit more than the bits of k is enough: each digit halves the bound, and 1 leaves 0
(46_scalar_multiplier.md R401). -/
theorem nafSum_nafDigits {n k : Nat} (h : k ≤ 2 ^ n) : nafSum (nafDigits (n + 1) k) = k := by
  induction n generalizing k with
  | zero => interval_cases k <;> rfl
  | succ n ih => rw [nafDigits, nafSum, ih (nafRest_le h), nafInt_add_two_mul_nafRest]

/-- No two adjacent digits are nonzero (46_scalar_multiplier.md R401). -/
def NonAdjacent (ds : List NafDigit) : Prop := ds.IsChain fun c d => c = .zero ∨ d = .zero

theorem nonAdjacent_iff {ds : List NafDigit} : NonAdjacent ds ↔
    ∀ i : Nat, i + 1 < ds.length → ds[i]? = some NafDigit.zero ∨ ds[i + 1]? = some NafDigit.zero := by
  refine List.isChain_iff_getElem.trans (forall₂_congr fun i hi => ?_)
  rw [List.getElem?_eq_getElem hi, List.getElem?_eq_getElem (Nat.lt_of_succ_lt hi), Option.some.injEq,
    Option.some.injEq]

theorem nonAdjacent_nafDigits (n k : Nat) : NonAdjacent (nafDigits n k) := by
  induction n generalizing k with
  | zero => exact .nil
  | succ n ih =>
    cases n with
    | zero => exact .singleton _
    | succ n => exact .cons_cons (nafDigit_eq_zero_or k) (ih (nafRest k))

/-! ### Digits of a number in general -/

/-- After a nonzero digit the rest of the sum is even. -/
theorem NonAdjacent.two_dvd_nafSum {d : NafDigit} {ds : List NafDigit} (h : NonAdjacent (d :: ds))
    (hd : d ≠ .zero) : 2 ∣ nafSum ds := by
  cases ds with
  | nil => exact dvd_zero 2
  | cons e ds =>
    obtain rfl : e = .zero := (List.isChain_cons_cons.1 h).1.resolve_left hd
    exact ⟨nafSum ds, zero_add _⟩

/-- The lowest digit is read off the sum modulo 4: what follows a nonzero one is even. -/
theorem NonAdjacent.head_eq {d : NafDigit} {ds : List NafDigit} (h : NonAdjacent (d :: ds)) :
    d = if nafSum (d :: ds) % 4 = 1 then .one else if nafSum (d :: ds) % 4 = 3 then .minusOne else .zero := by
  have heven := h.two_dvd_nafSum
  have hsum : nafSum (d :: ds) = nafInt d + 2 * nafSum ds := rfl
  cases d <;> simp only [nafInt] at hsum
  case zero => rw [if_neg (by omega), if_neg (by omega)]
  case one =>
    obtain ⟨c, hc⟩ := heven nofun
    rw [if_pos (by omega)]
  case minusOne =>
    obtain ⟨c, hc⟩ := heven nofun
    rw [if_neg (by omega), if_pos (by omega)]

/-- Non-adjacent digits are known by their number and their sum (46_scalar_multiplier.md R401). -/
theorem NonAdjacent.eq_of_nafSum_eq {ds es : List NafDigit} (hds : NonAdjacent ds) (hes : NonAdjacent es)
    (hlen : ds.length = es.length) (hsum : nafSum ds = nafSum es) : ds = es := by
  induction ds generalizing es with
  | nil => exact (List.eq_nil_of_length_eq_zero hlen.symm).symm
  | cons d ds ih =>
    obtain _ | ⟨e, es⟩ := es
    · cases hlen
    have hhead := hds.head_eq
    rw [hsum, ← hes.head_eq] at hhead
    subst hhead
    have hrest : nafSum ds = nafSum es := by simpa [nafSum] using hsum
    rw [ih hds.of_cons hes.of_cons (Nat.succ.inj hlen) hrest]

theorem nafSum_eq_zero {ds : List NafDigit} (h : ∀ j : Nat, j < ds.length → ds[j]? = some NafDigit.zero) :
    nafSum ds = 0 := by
  induction ds with
  | nil => rfl
  | cons d ds ih =>
    obtain rfl : d = .zero := by simpa using h 0 (Nat.succ_pos _)
    rw [nafSum, ih fun j hj => h (j + 1) (Nat.succ_lt_succ hj)]
    rfl

/-- The highest nonzero digit has the sign of the sum (46_scalar_multiplier.md R401). -/
theorem highest_digit_eq_one {ds : List NafDigit} (hsum : 0 ≤ nafSum ds) {i : Nat} (hi : i < ds.length)
    (hne : ds[i]? ≠ some NafDigit.zero)
    (htop : ∀ j : Nat, i < j → j < ds.length → ds[j]? = some NafDigit.zero) : ds[i]? = some NafDigit.one := by
  induction ds generalizing i with
  | nil => exact absurd hi (Nat.not_lt_zero i)
  | cons d ds ih =>
    rw [nafSum] at hsum
    cases i with
    | zero =>
      rw [nafSum_eq_zero fun j hj => htop (j + 1) (Nat.succ_pos j) (Nat.succ_lt_succ hj)] at hsum
      cases d with
      | minusOne => exact absurd hsum (by decide)
      | zero => exact absurd rfl hne
      | one => rfl
    | succ i =>
      have hrest : 0 ≤ nafSum ds := by
        have : nafInt d ≤ 1 := by cases d <;> decide
        omega
      exact ih hrest (Nat.lt_of_succ_lt_succ hi) hne fun j hij hj =>
        htop (j + 1) (Nat.succ_lt_succ hij) (Nat.succ_lt_succ hj)

/-- Settles O44: the digits are made non-adjacent and sum to k, which determines them and the sign of the
highest one. -/
theorem nafDigitsRepresentTheScalar : Obligations.NafDigitsRepresentTheScalar := by
  intro k hk
  have hlen : (naf k).length = 257 := length_nafDigits nafLength k
  have hsum : nafSum (naf k) = k := nafSum_nafDigits (n := 256) hk.le
  have hadj : NonAdjacent (naf k) := nonAdjacent_nafDigits nafLength k
  refine ⟨hlen, hsum, nonAdjacent_iff.1 hadj, fun i hi hne htop => ?_, fun ds hds hdsum hdadj => ?_⟩
  · rw [← hlen] at hi htop
    exact highest_digit_eq_one (hsum ▸ Int.natCast_nonneg k) hi hne htop
  · exact (nonAdjacent_iff.2 hdadj).eq_of_nafSum_eq hadj (hds.trans hlen.symm) (hdsum.trans hsum.symm)

end Sys2Proof.Machine
end

section
/-!
PSMUL (46_scalar_multiplier.md R402 to R404): the loop over the NAF digits of the scalar, and its value for the
scalars 0 and 1 from the ring axioms of the coordinates alone.
-/

namespace Sys2Proof.Machine

open Config

/-! ### The loop -/

/-- The loop with its iteration written out, the most significant digit first (46_scalar_multiplier.md R403). -/
theorem smul_eq_foldl {A E : Type} (G : GroupOps A E) (p : E) (k : Nat) :
    smul G p k = (naf k).reverse.foldl (fun acc (c : NafDigit) =>
      let e := G.dbl acc
      if c = .zero then e else G.add e (if c = .minusOne then G.negE p else p)) G.identityE := by
  rw [List.foldl_reverse, smul]
  congr 1
  funext c acc
  cases c <;> rfl

/-- PSMUL on a group whose points `V` holds in registers: it converts the operand and multiplies it by the
scalar's canonical integer (46_scalar_multiplier.md R402, R403). -/
theorem puts_of_psmul {A E : Type} {s : State} {t : TCode} {operand : Value → Except FaultCode E}
    {V : E → Value} {G : GroupOps A E} {d a b : Reg} {p : E} {m : Fr} (ht : t ∈ projTypes)
    (hmul : ∀ k x, pointUnary s.params (fun _ _ G p => smul G p k) t x =
      (operand x).map fun p => V (smul G p k))
    (ha : GivesPoint s t operand a p) (hb : s.reg b = .fr m) :
    ∃ u, exec (.psmul t d a b) s = .next u ∧ Puts d (V (smul G p (valOf s.params.fr m))) s u := by
  obtain ⟨hop, hp⟩ := ha
  exact Commits.puts ⟨ht, hop, operand_of_reg (ts := allTypes) (by decide) (by decide) hb rfl,
    valOf s.params.fr m, hb ▸ rfl, _, by rw [hmul, hp]; rfl, rfl⟩

section

variable {s : State} {d a b : Reg} {m : Fr} (hb : s.reg b = .fr m)

include hb

theorem puts_of_psmul_g1 {p : ProjPoint Fq} (hp : HoldsG1 s.params (s.reg a) p) :
    ∃ u, exec (.psmul .g1p d a b) s = .next u ∧
      Puts d (.g1p (smul (g1Ops s.params) p (valOf s.params.fr m))) s u :=
  puts_of_psmul (by decide) (fun _ _ => rfl) hp.givesPoint hb

theorem puts_of_psmul_g2 {p : ProjPoint Fq2} (hp : HoldsG2 s.params (s.reg a) p) :
    ∃ u, exec (.psmul .g2p d a b) s = .next u ∧
      Puts d (.g2p (smul (g2Ops s.params) p (valOf s.params.fr m))) s u :=
  puts_of_psmul (by decide) (fun _ _ => rfl) hp.givesPoint hb

theorem puts_of_psmul_ed {p : EdExtended} (hp : HoldsEd s.params (s.reg a) p) :
    ∃ u, exec (.psmul .ede d a b) s = .next u ∧
      Puts d (.ede (smul (edOps s.params) p (valOf s.params.fr m))) s u :=
  puts_of_psmul (by decide) (fun _ _ => rfl) hp.givesPoint hb

end

/-- Settles O45: the model's fold from the last digit is the loop, and each group's functions are its
formulas. -/
theorem scalarMultiplyRunsTheNafLoop : Obligations.ScalarMultiplyRunsTheNafLoop := by
  intro s d a b m hb
  refine ⟨fun p hp => ?_, fun p hp => ?_, fun p hp => ?_⟩
  · have h := puts_of_psmul_g1 (d := d) hb hp
    rwa [smul_eq_foldl] at h
  · have h := puts_of_psmul_g2 (d := d) hb hp
    rwa [smul_eq_foldl] at h
  · have h := puts_of_psmul_ed (d := d) hb hp
    rwa [smul_eq_foldl] at h

/-! ### The scalars 0 and 1 -/

theorem naf_zero : naf 0 = List.replicate 257 .zero := nafDigits_zero nafLength

theorem naf_one : naf 1 = .one :: List.replicate 256 .zero :=
  congrArg (NafDigit.one :: ·) (nafDigits_zero 256)

/-- Doubling the start point of the loop gives `o`, which further doublings leave as it is. -/
structure GroupOps.SettlesAt {A E : Type} (G : GroupOps A E) (o : E) : Prop where
  first : G.dbl G.identityE = o
  again : G.dbl o = o

section

variable {A E : Type} {G : GroupOps A E} {o : E} (h : G.SettlesAt o)

include h

theorem GroupOps.SettlesAt.foldr_zeros (p np : E) (n : Nat) :
    (List.replicate (n + 1) NafDigit.zero).foldr (smulStep G p np) G.identityE = o := by
  induction n with
  | zero => exact h.first
  | succ n ih => rw [List.replicate_succ, List.foldr_cons, ih]; exact h.again

theorem GroupOps.SettlesAt.smul_zero (p : E) : smul G p 0 = o := by
  rw [smul, naf_zero]
  exact h.foldr_zeros p _ 256

/-- Only the last iteration adds (46_scalar_multiplier.md R404). -/
theorem GroupOps.SettlesAt.smul_one (p : E) : smul G p 1 = G.add o p := by
  rw [smul, naf_one, List.foldr_cons, h.foldr_zeros p _ 255]
  exact congrArg (G.add · p) h.again

end

section

variable {K L : Type} [CommRing L] {F : FieldOps K} {ok : K → Bool} {σ : L → K} {b b3 : K}
  (h : F.Encodes (fun a => ok a = true) σ) (hb3 : ok b3 = true)

include h hb3

/-- The double of (0, 1, 0) is (0, 1, 0) (44_curve_group_law.md R328, 46_scalar_multiplier.md R404). -/
theorem weierstrassOps_settlesAt : (weierstrassOps F b b3).SettlesAt ⟨F.zero, F.one, F.zero⟩ := by
  obtain ⟨c, rfl⟩ := (h.ok_iff b3).1 hb3
  have hdbl : dblW F (σ c) ⟨F.zero, F.one, F.zero⟩ = ⟨F.zero, F.one, F.zero⟩ := by
    simp only [dblW, h.zero, h.one, h.add, h.sub, h.mul, mul_zero, zero_mul, mul_one, add_zero, zero_add,
      sub_zero]
  exact ⟨hdbl, hdbl⟩

/-- (0, 1, 0) + P is (Y·X, Y·Y, Y·Z) (44_curve_group_law.md R327). -/
theorem eqWP_addW_identity {p : ProjPoint K} (hp : projOk ok p = true) :
    eqWP F (addW F b3 ⟨F.zero, F.one, F.zero⟩ p) p = true := by
  obtain ⟨px, py, pz⟩ := p
  obtain ⟨hx, hy, hz⟩ := projOk_iff.1 hp
  obtain ⟨x, rfl⟩ := (h.ok_iff px).1 hx
  obtain ⟨y, rfl⟩ := (h.ok_iff py).1 hy
  obtain ⟨z, rfl⟩ := (h.ok_iff pz).1 hz
  obtain ⟨c, rfl⟩ := (h.ok_iff b3).1 hb3
  simp only [eqWP, addW, h.zero, h.one, h.add, h.sub, h.mul, Bool.and_eq_true, h.eq_iff]
  constructor <;> ring

end

section

variable {P : ParamStore} (hP : ParamLaws P)

include hP

theorem b3G1_canonical : canonical P.fq P.b3G1 = true := hP.b3G1 ▸ fadd_canonical hP.fq _ _

theorem b3G2_canonical : canonical2 P P.b3G2 = true := hP.b3G2 ▸ add2_canonical hP _ _

theorem g1Ops_settlesAt : (g1Ops P).SettlesAt ⟨0, P.fq.one, 0⟩ := by
  obtain ⟨σ, -, h⟩ := (baseOps_reads hP.fq).exists_encodes
  exact weierstrassOps_settlesAt h (b3G1_canonical hP)

theorem g2Ops_settlesAt : (g2Ops P).SettlesAt ⟨zero2, one2 P, zero2⟩ := by
  obtain ⟨σ, -, h⟩ := (fq2Ops_reads hP).exists_encodes
  exact weierstrassOps_settlesAt h (b3G2_canonical hP)

theorem frOps_encodes : ∃ σ : ZMod P.fr.p.toNat → Fr, (frOps P).Encodes (fun m => canonical P.fr m = true) σ :=
  let ⟨σ, _, h⟩ := (baseOps_reads hP.fr).exists_encodes
  ⟨σ, h⟩

/-- The double of (0, 1, 0, 1) is (0, -1, 0, -1), and that of (0, -1, 0, -1) is itself
(44_curve_group_law.md R330, 46_scalar_multiplier.md R404). -/
theorem edOps_settlesAt :
    (edOps P).SettlesAt ⟨0, fneg P.fr P.fr.one, 0, fneg P.fr P.fr.one⟩ := by
  obtain ⟨σ, h⟩ := frOps_encodes hP
  obtain ⟨a, ha⟩ := (h.ok_iff P.edA).1 hP.edA
  have hzero : (0 : Fr) = σ 0 := h.zero
  have hone : P.fr.one = σ 1 := h.one
  have hneg : fneg P.fr (σ 1) = σ (-1) := h.neg 1
  have hdbl : ∀ u, u * u = 1 → dblE P ⟨σ 0, σ u, σ 0, σ u⟩ = ⟨σ 0, σ (-1), σ 0, σ (-1)⟩ := by
    intro u hu
    simp only [dblE, ← ha, h.mul, h.add, h.sub, h.dbl, mul_zero, zero_add, hu, EdExtended.mk.injEq, h.inj]
    refine ⟨?_, ?_, ?_, ?_⟩ <;> ring
  rw [hone, hneg, hzero]
  constructor
  · simp only [edOps, hone, hzero]
    exact hdbl 1 (one_mul 1)
  · exact hdbl (-1) (by ring)

/-- (0, -1, 0, -1) + P is (X·Z, Y·Z, X·Y, Z·Z) (44_curve_group_law.md R329). -/
theorem eqEE_addE_identity {p : EdExtended} (hp : edExtendedOk P p = true) :
    eqEE P (addE P ⟨0, fneg P.fr P.fr.one, 0, fneg P.fr P.fr.one⟩ p) p = true := by
  obtain ⟨σ, h⟩ := frOps_encodes hP
  obtain ⟨px, py, pt, pz⟩ := p
  obtain ⟨hx, hy, ht, hz⟩ := edExtendedOk_iff.1 hp
  obtain ⟨a, ha⟩ := (h.ok_iff P.edA).1 hP.edA
  obtain ⟨c, hc⟩ := (h.ok_iff P.edD).1 hP.edD
  obtain ⟨x, rfl⟩ := (h.ok_iff px).1 hx
  obtain ⟨y, rfl⟩ := (h.ok_iff py).1 hy
  obtain ⟨t, rfl⟩ := (h.ok_iff pt).1 ht
  obtain ⟨z, rfl⟩ := (h.ok_iff pz).1 hz
  have hzero : (0 : Fr) = σ 0 := h.zero
  have hone : P.fr.one = σ 1 := h.one
  have hneg : fneg P.fr (σ 1) = σ (-1) := h.neg 1
  simp only [eqEE, addE, hzero, hone, hneg, ← ha, ← hc, h.mul, h.add, h.sub, Bool.and_eq_true, h.eq_iff]
  constructor <;> ring

end

/-- The loop's value for the scalars 0 and 1, put by PSMUL. -/
theorem zero_and_one_of_puts {A E : Type} {G : GroupOps A E} {o p : E} {i : Instr} {s : State} {d : Reg}
    {V : E → Value} {k : Nat} (hG : G.SettlesAt o) (heq : G.eqE (G.add o p) p = true)
    (h : ∃ u, exec i s = .next u ∧ Puts d (V (smul G p k)) s u) :
    ∃ u r, exec i s = .next u ∧ Puts d (V r) s u ∧ (k = 0 → r = o) ∧ (k = 1 → G.eqE r p = true) := by
  obtain ⟨u, hu, hputs⟩ := h
  refine ⟨u, _, hu, hputs, fun hk => ?_, fun hk => ?_⟩
  · rw [hk, hG.smul_zero]
  · rw [hk, hG.smul_one, heq]

/-- Settles O46: every digit of 0 is 0 and only the lowest of 1 is not, so the loop doubles the identity, and
for 1 adds P once. -/
theorem scalarZeroAndOne : Obligations.ScalarZeroAndOne := by
  intro s d a b m hparams hb hm hok P minus
  have hP := paramLaws_of_ok hparams
  have hkept := valueOk_kept hparams
  refine ⟨fun p hp => ?_, fun p hp => ?_, fun p hp => ?_⟩
  · obtain ⟨σ, -, h⟩ := (baseOps_reads hP.fq).exists_encodes
    exact zero_and_one_of_puts (g1Ops_settlesAt hP)
      (eqWP_addW_identity h (b3G1_canonical hP) (hkept.g1Operand hok hp.givesPoint.2))
      (puts_of_psmul_g1 hb hp)
  · obtain ⟨σ, -, h⟩ := (fq2Ops_reads hP).exists_encodes
    exact zero_and_one_of_puts (g2Ops_settlesAt hP)
      (eqWP_addW_identity h (b3G2_canonical hP) (hkept.g2Operand hok hp.givesPoint.2))
      (puts_of_psmul_g2 hb hp)
  · exact zero_and_one_of_puts (edOps_settlesAt hP)
      (eqEE_addE_identity hP (hkept.edOperand hok hp.givesPoint.2)) (puts_of_psmul_ed hb hp)

end Sys2Proof.Machine
end

section
/-!
The check procedure of 60_exceptions.md R425 on the in-flight word: a command's execution stops at its first
failing check, and a command that passes them all retires and leaves the rest of the block alone
(70_reset_and_hazards.md R481, 20_memory.md R90).
-/

namespace Sys2Proof.Machine

open Config

/-! ### The first failing check -/

/-- `r` fails with the fault `o` names, where it names one. -/
def StopsAt (o : Option FaultCode) (r : Except FaultCode Effect) : Prop := ∀ c, o = some c → r = .error c

theorem stopsAt_none (r : Except FaultCode Effect) : StopsAt none r := nofun

/-- A check ahead of `f` is the first to fail where it does (60_exceptions.md R425 steps 3 to 5). -/
theorem StopsAt.check {o : Option FaultCode} {ok : Bool} {c : FaultCode} {f : Unit → Except FaultCode Effect}
    (h : StopsAt o (f ())) : StopsAt (if ok = false then some c else o) (check ok c >>= f) := by
  cases ok with
  | false => exact fun c' hc => congrArg Except.error (Option.some.inj hc)
  | true => exact h

/-- A check that is not the command's own stands in `faultOf` as one that holds. -/
theorem StopsAt.pass {o : Option FaultCode} {c : FaultCode} {r : Except FaultCode Effect} (h : StopsAt o r) :
    StopsAt (if true = false then some c else o) r := h

/-- A source ahead of `f` is the first check to fail where it does (60_exceptions.md R425 step 6). -/
theorem StopsAt.source {s : State} {r : Reg} {required : List TCode} {rest : List (Reg × List TCode)}
    {f : Value → Except FaultCode Effect} (h : ∀ x, StopsAt (firstSourceFault s rest) (f x)) :
    StopsAt (firstSourceFault s ((r, required) :: rest)) (source s r required >>= f) := by
  unfold firstSourceFault Machine.source
  split_ifs
  · exact fun c hc => congrArg Except.error (Option.some.inj hc)
  · exact h _
  · exact fun c hc => congrArg Except.error (Option.some.inj hc)

/-- Every command makes the checks of `faultOf` in their order before anything else. -/
theorem exec_stopsAt_faultOf (i : Instr) (s : State) :
    ∃ r, exec i s = complete r s ∧ StopsAt (faultOf s i) r := by
  cases i
  case nop => exact ⟨.ok .nothing, rfl, stopsAt_none _⟩
  all_goals refine ⟨_, rfl, .check ?_⟩
  case ld | ldm => exact .pass (.check (stopsAt_none _))
  case st | stm => exact .pass (.check (.source fun _ => stopsAt_none _))
  case const => exact .check (.pass (stopsAt_none _))
  case frob => exact .check (.pass (.source fun _ => stopsAt_none _))
  all_goals refine .pass (.pass (.source fun _ => ?_))
  case sel => exact .source fun _ => .source fun _ => stopsAt_none _
  case add | sub | mul | eq | padd | psmul | peq => exact .source fun _ => stopsAt_none _
  all_goals exact stopsAt_none _

/-- A command that fails a check takes the fault of the first one (60_exceptions.md R425). -/
theorem exec_of_fault {i : Instr} {s : State} {c : FaultCode} (h : faultOf s i = some c) :
    exec i s = .next (takeFault c s) := by
  obtain ⟨r, hr, hstop⟩ := exec_stopsAt_faultOf i s
  rw [hr, hstop c h, complete_error]

theorem faultOf_of_bad_imm {i : Instr} (s : State) (ht : i.typeOk = true) (hi : i.immOk = false) :
    faultOf s i = some .illegalImm := by
  simp [faultOf, ht, hi]

theorem faultOf_of_bad_range {i : Instr} (s : State) (ht : i.typeOk = true) (hi : i.immOk = true)
    (hr : i.rangeOk = false) : faultOf s i = some .iobufRange := by
  simp [faultOf, ht, hi, hr]

theorem firstSourceFault_congr_tags {s s' : State} (h : ∀ r, tagOf (s'.reg r) = tagOf (s.reg r))
    (sources : List (Reg × List TCode)) : firstSourceFault s' sources = firstSourceFault s sources := by
  induction sources with
  | nil => rfl
  | cons p rest ih => simp only [firstSourceFault, h, ih]

/-- The checks of a command look at the tags of its sources only (60_exceptions.md R425). -/
theorem faultOf_congr_tags {s s' : State} (h : ∀ r, tagOf (s'.reg r) = tagOf (s.reg r)) (i : Instr) :
    faultOf s' i = faultOf s i := by
  simp only [faultOf, firstSourceFault_congr_tags h]

theorem faultOf_withInputs (s : State) (rest : List Input) (i : Instr) :
    faultOf { s with inputs := rest } i = faultOf s i :=
  faultOf_congr_tags (s := s) (s' := { s with inputs := rest }) (fun _ => rfl) i

/-! ### The check procedure on a word -/

/-- Steps 1 and 2 of 60_exceptions.md R425 by the masks of `reservedBits` are the decoder's. -/
theorem wordFault_of_refused {w : Command} {c : FaultCode} (s : State) (h : decode w = .fault c) :
    wordFault s w = some c := by
  have hdec := decode_decodesTo w
  rw [h] at hdec
  unfold wordFault
  generalize reservedBits (opField w).toNat = o at hdec ⊢
  cases hdec with
  | illegalOpcode => rfl
  | reservedField hm => exact if_pos hm

theorem wordFault_of_command {w : Command} {i : Instr} (s : State) (h : decode w = .instr i) :
    wordFault s w = faultOf s i := by
  have hdec := decode_decodesTo w
  rw [h] at hdec
  unfold wordFault
  rw [h]
  generalize reservedBits (opField w).toNat = o at hdec ⊢
  cases hdec with
  | command hm => exact if_neg (not_not_intro hm)

theorem wordFault_congr_tags {s s' : State} (h : ∀ r, tagOf (s'.reg r) = tagOf (s.reg r)) (w : Command) :
    wordFault s' w = wordFault s w := by
  cases hd : decode w with
  | fault c => rw [wordFault_of_refused s hd, wordFault_of_refused s' hd]
  | instr i => rw [wordFault_of_command s hd, wordFault_of_command s' hd, faultOf_congr_tags h]

/-- A word that passes every check is a command that passes its own. -/
theorem exists_command_of_no_wordFault {s : State} {w : Command} (h : wordFault s w = none) :
    ∃ i, decode w = .instr i ∧ faultOf s i = none := by
  cases hd : decode w with
  | fault c => rw [wordFault_of_refused s hd] at h; cases h
  | instr i => exact ⟨i, rfl, wordFault_of_command s hd ▸ h⟩

/-! ### A command that passes the checks -/

/-- A commit and retire changes value registers, IOBUF, NONE and DECFAIL alone, besides what every
retirement does (70_reset_and_hazards.md R481). -/
theorem retires_applyEffect (e : Effect) (s : State) : Retires s (retire (applyEffect e s)) := by
  cases e with
  | nothing => exact ⟨rfl, rfl, rfl, rfl, rfl, rfl, rfl, rfl, rfl, rfl, rfl, rfl, rfl, rfl, rfl, rfl⟩
  | put d x => exact (puts_of_put d x s).1
  | noneResult d => exact (givesNone_of_noneResult d s).1
  | decodeFailure d => exact (givesDecfail_of_decodeFailure d s).1
  | store off chunks => exact (stores_of_store off chunks s).1

/-- A command that passes its checks commits an effect and retires (60_exceptions.md R425,
70_reset_and_hazards.md R481). -/
theorem exec_of_no_fault {i : Instr} {s : State} (h : faultOf s i = none) :
    ∃ e, Commits s i e ∧ exec i s = .next (retire (applyEffect e s)) := by
  obtain ⟨e, he⟩ := commits_of_no_fault h
  exact ⟨e, he, he.exec_eq⟩

/-- An effect leaves the registers it does not write (20_memory.md R90). -/
theorem applyEffect_reg_of_ne_dest {e : Effect} {r : Reg} (h : e.dest ≠ some r) (s : State) :
    (applyEffect e s).reg r = s.reg r := by
  obtain hr | ⟨-, rfl | rfl⟩ | ⟨x, rfl, -⟩ := applyEffect_reg e s r
  · exact hr
  all_goals exact absurd rfl h

/-- A store is ST's or STM's (20_memory.md R90). -/
theorem Commits.store {s : State} {i : Instr} {off : Nat} {chunks : List (Nat × Nat)}
    (h : Commits s i (.store off chunks)) : ∃ t d o, i = .st t d o ∨ i = .stm t d o := by
  cases i with
  | st t d o => exact ⟨t, d, o, .inl rfl⟩
  | stm t d o => exact ⟨t, d, o, .inr rfl⟩
  | _ => simp [Commits] at h

/-- A command other than ST and STM leaves every byte of IOBUF (20_memory.md R90). -/
theorem Commits.sameMemory {s : State} {i : Instr} {e : Effect} (h : Commits s i e)
    (hi : ∀ t d off, i ≠ .st t d off ∧ i ≠ .stm t d off) : SameMemory s (retire (applyEffect e s)) := by
  cases e with
  | store off chunks =>
    obtain ⟨t, d, o, hst | hstm⟩ := h.store
    · exact absurd hst (hi t d o).1
    · exact absurd hstm (hi t d o).2
  | nothing | put | noneResult | decodeFailure => exact fun _ => rfl

/-- NONE stays, or an INV, PNEG or TOAFF sets it (60_exceptions.md R432). -/
theorem Commits.status_none {s : State} {i : Instr} {e : Effect} (h : Commits s i e) :
    (applyEffect e s).status.none = s.status.none ∨ ((applyEffect e s).status.none = true ∧
      ∃ t d a, i = .inv t d a ∨ i = .pneg t d a ∨ i = .toaff t d a) := by
  cases e with
  | noneResult d =>
    obtain ⟨t, a, hi⟩ := h.none_result
    exact .inr ⟨rfl, t, d, a, hi⟩
  | nothing | put | decodeFailure | store => simp [applyEffect_status_none, Effect.setsNone]

/-- DECFAIL stays, or an LD or LDM sets it (60_exceptions.md R431). -/
theorem Commits.status_decfail {s : State} {i : Instr} {e : Effect} (h : Commits s i e) :
    (applyEffect e s).status.decfail = s.status.decfail ∨ ((applyEffect e s).status.decfail = true ∧
      ∃ t d off, i = .ld t d off ∨ i = .ldm t d off) := by
  cases e with
  | decodeFailure d =>
    obtain ⟨t, off, hi⟩ := h.decode_failure
    exact .inr ⟨rfl, t, d, off, hi⟩
  | nothing | put | noneResult | store => simp [applyEffect_status_decfail, Effect.setsDecfail]

/-- Settles O9: the command commits one effect, and what each effect leaves is said above. -/
theorem faultFreeCommandRetires : Obligations.FaultFreeCommandRetires := by
  intro i s hf
  obtain ⟨e, he, hexec⟩ := exec_of_no_fault hf
  refine ⟨_, hexec, retires_applyEffect e s, fun r hr => ?_, he.sameMemory, fun ty d off hi a ha => ?_,
    he.status_none, he.status_decfail⟩
  · exact applyEffect_reg_of_ne_dest (he.dest_eq ▸ hr) s
  · obtain ⟨chunks, rfl, hwords⟩ := he.store_of_st hi
    exact State.iobufByte_storeChunks s off.toNat chunks a (hwords ▸ ha)

/-! ### The ENGINE's turn on the in-flight word -/

section EngineTurn

variable {s : State} {w : Command} {rest : List Input} (hs : s.inputs = .engine :: rest)
  (hw : s.inflight = some w)

include hs hw

theorem step_of_command {i : Instr} (hd : decode w = .instr i) : step s = exec i { s with inputs := rest } := by
  rw [step_of_engine_turn hs, engineStep_of_command (s := { s with inputs := rest }) hw hd]

/-- The first failing check of the in-flight word raises its fault (60_exceptions.md R425). -/
theorem step_of_wordFault {c : FaultCode} (h : wordFault s w = some c) :
    ∃ t, step s = .next t ∧ FaultTaken c w { s with inputs := rest } t := by
  cases hd : decode w with
  | fault c' =>
    obtain rfl : c' = c := Option.some.inj ((wordFault_of_refused s hd).symm.trans h)
    exact step_of_refused_word hs hw hd
  | instr i =>
    have hf : faultOf { s with inputs := rest } i = some c := by
      rw [faultOf_withInputs, ← wordFault_of_command s hd, h]
    refine ⟨_, (step_of_command hs hw hd).trans (exec_of_fault hf), ?_⟩
    have hword := inflightWord_of_some (s := { s with inputs := rest }) hw
    simpa only [hword] using takeFault_spec c { s with inputs := rest }

theorem step_of_command_fault {i : Instr} {c : FaultCode} (hd : decode w = .instr i)
    (h : faultOf s i = some c) : ∃ t, step s = .next t ∧ FaultTaken c w { s with inputs := rest } t :=
  step_of_wordFault hs hw ((wordFault_of_command s hd).trans h)

theorem step_of_no_wordFault (h : wordFault s w = none) :
    ∃ i t, decode w = .instr i ∧ step s = .next t ∧ Retires { s with inputs := rest } t := by
  obtain ⟨i, hd, hf⟩ := exists_command_of_no_wordFault h
  rw [← faultOf_withInputs s rest] at hf
  obtain ⟨e, -, hexec⟩ := exec_of_no_fault hf
  exact ⟨i, _, hd, (step_of_command hs hw hd).trans hexec, retires_applyEffect e _⟩

end EngineTurn

/-! ### Steps 4 and 5 in numbers -/

theorem constImmLegal_eq_false {t : TCode} {k : BitVec 10}
    (h : 1 < k.toNat ∨ (k.toNat = 1 ∧ t ∈ pointTypes)) : constImmLegal t k = false := by
  obtain h | ⟨h, ht⟩ := h <;> simp [constImmLegal, *]

theorem frobImmLegal_eq_false {i : BitVec 10} (h : 11 < i.toNat) : frobImmLegal i = false :=
  decide_eq_false (by omega)

theorem rangeLegal_eq_false {t : TCode} {off : BitVec 10} (h : 1024 < off.toNat + wordsOf t) :
    rangeLegal t off = false :=
  decide_eq_false (by omega)

/-- The table of 40_data_movement.md R160 lists the sizes of the types LD and ST admit. -/
theorem mem_valueSizes {t : TCode} {n : Nat} (h : (t, n) ∈ valueSizes) : t ∈ allTypes ∧ wordsOf t = n := by
  have hall : ∀ p ∈ valueSizes, p.1 ∈ allTypes ∧ wordsOf p.1 = p.2 := by decide
  exact hall _ h

/-- Settles O8: `wordFault` is the decoder's refusal or `faultOf`, whose first failing check the execution
takes (`step_of_wordFault`). -/
theorem firstFailingCheckFaults : Obligations.FirstFailingCheckFaults := by
  intro s w rest hs hw
  refine ⟨fun c => step_of_wordFault hs hw, step_of_no_wordFault hs hw, fun s' h => wordFault_congr_tags h w,
    fun ty d k hd hty hk => ?_, fun ty d a i hd hty hi => ?_, fun ty size d off hsize hoff hd => ?_⟩
  · exact step_of_command_fault hs hw hd
      (faultOf_of_bad_imm s (decide_eq_true hty) (constImmLegal_eq_false hk))
  · exact step_of_command_fault hs hw hd
      (faultOf_of_bad_imm s (decide_eq_true hty) (frobImmLegal_eq_false hi))
  · obtain ⟨hall, rfl⟩ := mem_valueSizes hsize
    have hrange := rangeLegal_eq_false hoff
    obtain hd | hd | ⟨hfield, hd | hd⟩ := hd
    · exact step_of_command_fault hs hw hd (faultOf_of_bad_range s (decide_eq_true hall) rfl hrange)
    · exact step_of_command_fault hs hw hd (faultOf_of_bad_range s (decide_eq_true hall) rfl hrange)
    · exact step_of_command_fault hs hw hd (faultOf_of_bad_range s (decide_eq_true hfield) rfl hrange)
    · exact step_of_command_fault hs hw hd (faultOf_of_bad_range s (decide_eq_true hfield) rfl hrange)

end Sys2Proof.Machine
end

section
/-!
The host's writes to CTRL and CMD: the return from a fault and the acceptance of commands (60_exceptions.md
R429, R440, 10_state.md R43, R46).
-/

namespace Sys2Proof.Machine

theorem writeCmd_of_room {s : State} {data : Word} (hq : s.qcount < 16) (hf : s.status.fault = false) :
    writeCmd s data = { s with fifo := s.fifo ++ [data.setWidth 32] } := if_pos ⟨hq, hf⟩

theorem writeCmd_of_no_room {s : State} {data : Word} (h : 16 ≤ s.qcount ∨ s.status.fault = true) :
    writeCmd s data = s.setCmdovf := by
  refine if_neg fun ⟨hq, hf⟩ => ?_
  obtain h | h := h
  · exact absurd hq (Nat.not_lt.2 h)
  · exact Bool.false_ne_true (hf.symm.trans h)

/-- An 8-byte aligned access below 0x0040 reaches the register block (20_memory.md R82). -/
theorem hostAccess_of_register (s : State) (kind : AccessKind) {addr : BitVec 16} (data : Word)
    (ha : addr.toNat % 8 = 0) (hlt : addr.toNat < 0x0040) :
    hostAccess ⟨kind, addr, .b8, data⟩ s = registerAccess ⟨kind, addr, .b8, data⟩ s := by
  have hr : inRegisterBlock addr = true := decide_eq_true hlt
  rw [hostAccess, if_pos (legalAccess_iff.2 ⟨rfl, ha, .inl hlt⟩), if_pos hr]

/-- A write to CMD is answered OKAY (10_state.md R46). -/
theorem hostAccess_cmd (s : State) (data : Word) :
    hostAccess ⟨.write, 0x0020, .b8, data⟩ s = (writeCmd s data).answer .okay 0 :=
  hostAccess_of_register s .write data (by decide) (by decide)

/-- A write to CTRL is answered OKAY (10_state.md R43). -/
theorem hostAccess_ctrl (s : State) (data : Word) :
    hostAccess ⟨.write, 0x0010, .b8, data⟩ s = (writeCtrl s data).answer .okay 0 :=
  hostAccess_of_register s .write data (by decide) (by decide)

theorem writeCtrl_of_clrf {s : State} {data : Word} (h9 : data.getLsbD 9 = false)
    (h8 : data.getLsbD 8 = true) (hf : s.status.fault = true) :
    writeCtrl s data = { s with
      doneIe := data.getLsbD 0
      faultIe := data.getLsbD 1
      status := { s.status with fault := false, faultCode := 0 } } := by
  rw [writeCtrl, h9, h8]
  exact if_pos hf

theorem writeCtrl_of_no_clrf {s : State} {data : Word} (h9 : data.getLsbD 9 = false)
    (h : data.getLsbD 8 = false ∨ s.status.fault = false) :
    writeCtrl s data = { s with doneIe := data.getLsbD 0, faultIe := data.getLsbD 1 } := by
  rw [writeCtrl, h9]
  obtain h8 | hf := h
  · rw [h8]
    rfl
  · simp only [clearFault, hf, Bool.false_eq_true, if_false, ite_self]

/-- Settles O49: the access reaches `writeCmd`. -/
theorem commandWriteAppendsOrOverflows : Obligations.CommandWriteAppendsOrOverflows := by
  intro s data rest h
  rw [step_of_host_turn h, hostAccess_cmd]
  refine ⟨fun hq hf => ?_, fun hfull => ?_⟩
  · rw [writeCmd_of_room (s := { s with inputs := rest }) hq hf, BitVec.setWidth_eq_extractLsb' (by decide)]
    rfl
  · rw [writeCmd_of_no_room (s := { s with inputs := rest }) hfull]
    rfl

/-- Settles O10: the access reaches `writeCtrl`; the slot and the FIFO of a good faulted state are empty, so
without its fault the ENGINE is IDLE and the FIFO has room. -/
theorem clearFaultReturns : Obligations.ClearFaultReturns := by
  intro s data rest h9 h
  rw [step_of_host_turn h, hostAccess_ctrl]
  refine ⟨fun h8 hf => ⟨_, rfl, ?_, fun hinv => ?_⟩, fun hclr => ?_⟩
  · rw [writeCtrl_of_clrf (s := { s with inputs := rest }) h9 h8 hf]
    rfl
  · obtain ⟨hslot, hfifo⟩ := hinv.faultedEmpty hf
    rw [writeCtrl_of_clrf (s := { s with inputs := rest }) h9 h8 hf]
    refine ⟨by simp [State.engineCondition, State.qcount, hslot, hfifo], fun w => ?_⟩
    rw [hostAccess_cmd, writeCmd_of_room (by simp [State.qcount, hfifo]) rfl]
    simp [hfifo]
  · rw [writeCtrl_of_no_clrf (s := { s with inputs := rest }) h9 hclr]
    rfl

end Sys2Proof.Machine
end

section
/-!
SUPPORT. The ENGINE's turns: every one answers a next state, and left to itself the ENGINE ends every accepted
command by a retire or a fault (70_reset_and_hazards.md R480, R481, R487).
-/

namespace Sys2Proof.Machine

/-! ### The start step -/

theorem startStep_of_head {s : State} {w : Command} {queue : List Command} (hf : s.status.fault = false)
    (hq : s.fifo = w :: queue) : startStep s = { s with inflight := some w, fifo := queue } := by
  simp [startStep, hf, hq]

/-- Where the start step is not enabled the block holds its state (60_exceptions.md R421, R454). -/
theorem startStep_of_not_enabled {s : State} (h : s.status.fault = true ∨ s.fifo = []) : startStep s = s := by
  obtain hf | hq := h
  · exact if_pos hf
  · simp [startStep, hq]

/-- Settles O5: both kinds of ENGINE turn are `engineStep`, on the schedule that is left. -/
theorem stepRunsDecodedCommand : Obligations.StepRunsDecodedCommand := by
  intro s
  refine ⟨fun w i hw hd => ⟨fun hi => ?_, fun rest hi => step_of_command hi hw hd⟩, fun hslot =>
    ⟨fun w queue hf hq => ⟨fun hi => ?_, fun rest hi => ?_⟩, fun hhold => ⟨fun hi => ?_, fun rest hi => ?_⟩⟩⟩
  · rw [step_of_no_inputs hi, engineStep_of_command hw hd]
  · rw [step_of_no_inputs hi, engineStep_of_empty_slot hslot, startStep_of_head hf hq]
  · rw [step_of_engine_turn hi, engineStep_of_empty_slot (s := { s with inputs := rest }) hslot,
      startStep_of_head (s := { s with inputs := rest }) hf hq]
  · rw [step_of_no_inputs hi, engineStep_of_empty_slot hslot, startStep_of_not_enabled hhold]
  · rw [step_of_engine_turn hi, engineStep_of_empty_slot (s := { s with inputs := rest }) hslot,
      startStep_of_not_enabled (s := { s with inputs := rest }) hhold]

/-! ### Every turn answers -/

/-- A word in the slot takes a fault or retires at the ENGINE's turn (70_reset_and_hazards.md R481). -/
theorem engineStep_faults_or_retires {s : State} {w : Command} (h : s.inflight = some w) :
    ∃ t, engineStep s = .next t ∧ ((∃ c, t = takeFault c s) ∨ Retires s t) := by
  cases hd : decode w with
  | fault c => exact ⟨_, engineStep_of_refused_word h hd, .inl ⟨c, rfl⟩⟩
  | instr i =>
    obtain ⟨r, hr, -⟩ := exec_eq_complete i s
    rw [engineStep_of_command h hd, hr]
    cases r with
    | error c => exact ⟨_, complete_error c s, .inl ⟨c, rfl⟩⟩
    | ok e => exact ⟨_, complete_ok e s, .inr (retires_applyEffect e s)⟩

theorem engineStep_answers (s : State) : ∃ t, engineStep s = .next t := by
  cases hslot : s.inflight with
  | none => exact ⟨_, engineStep_of_empty_slot hslot⟩
  | some w =>
    obtain ⟨t, ht, -⟩ := engineStep_faults_or_retires hslot
    exact ⟨t, ht⟩

/-- Settles O6: a host turn and a reset answer by their definitions, the ENGINE by `engineStep_answers`. -/
theorem everyStepAnswersNext : Obligations.EveryStepAnswersNext := by
  intro s
  cases hi : s.inputs with
  | nil => rw [step_of_no_inputs hi]; exact engineStep_answers s
  | cons input rest =>
    cases input with
    | engine => rw [step_of_engine_turn hi]; exact engineStep_answers _
    | host a => exact ⟨_, step_of_host_turn hi⟩
    | hardReset => exact ⟨_, step_of_hard_reset hi⟩

/-! ### The ENGINE left to itself -/

/-- The accepted commands that have neither retired nor faulted (70_reset_and_hazards.md R487). -/
def State.outstanding (s : State) : Nat := s.qcount + if s.inflight.isSome then 1 else 0

/-- The turns the ENGINE takes until nothing is outstanding, when no fault is taken: a retire for the word in the slot,
a start and a retire for each queued word. -/
def State.turnsLeft (s : State) : Nat := 2 * s.qcount + if s.inflight.isSome then 1 else 0

/-- CMD_COUNT once the outstanding commands have retired. -/
def State.finalCount (s : State) : Word := s.cmdCount + BitVec.ofNat 64 s.outstanding

theorem State.turnsLeft_eq_zero {s : State} : s.turnsLeft = 0 ↔ s.fifo = [] ∧ s.inflight = none := by
  cases h : s.inflight <;> simp [State.turnsLeft, State.qcount, h]

theorem State.turnsLeft_le (s : State) : s.turnsLeft ≤ 2 * s.qcount + 1 := by
  unfold State.turnsLeft
  split <;> omega

/-- A start puts the head of the FIFO into the slot: nothing is lost, and one turn is spent. -/
theorem start_turnsLeft_finalCount {s : State} {w : Command} {queue : List Command} (hslot : s.inflight = none)
    (hq : s.fifo = w :: queue) :
    State.turnsLeft { s with inflight := some w, fifo := queue } = s.turnsLeft - 1 ∧
      State.finalCount { s with inflight := some w, fifo := queue } = s.finalCount := by
  constructor
  · simp [State.turnsLeft, State.qcount, hslot, hq, Nat.mul_add]
  · simp [State.finalCount, State.outstanding, State.qcount, hslot, hq]

/-- A retire counts the command it takes out of the slot. -/
theorem Retires.turnsLeft_finalCount {s t : State} {w : Command} (h : Retires s t) (hslot : s.inflight = some w) :
    t.turnsLeft = s.turnsLeft - 1 ∧ t.finalCount = s.finalCount := by
  constructor
  · simp [State.turnsLeft, State.qcount, h.slot, h.queue, hslot]
  · simp only [State.finalCount, State.outstanding, State.qcount, h.slot, h.queue, h.count, hslot]
    simp [BitVec.ofNat_add, add_assoc, add_comm (1#64)]

/-- A turn of the ENGINE that ends without a fault spends one of the turns left, until none is left, and keeps
the final count. -/
theorem engineStep_progress (s : State) :
    ∃ t, engineStep s = .next t ∧ t.inputs = s.inputs ∧ (t.status.fault = true ∨
      s.status.fault = false ∧ t.turnsLeft = s.turnsLeft - 1 ∧ t.finalCount = s.finalCount) := by
  cases hslot : s.inflight with
  | some w =>
    obtain ⟨t, ht, ⟨c, rfl⟩ | hret⟩ := engineStep_faults_or_retires hslot
    · exact ⟨_, ht, rfl, .inl rfl⟩
    · refine ⟨t, ht, hret.inputs, ?_⟩
      cases hf : s.status.fault with
      | true => exact .inl (hret.fault.trans hf)
      | false => exact .inr ⟨rfl, hret.turnsLeft_finalCount hslot⟩
  | none =>
    rw [engineStep_of_empty_slot hslot]
    cases hf : s.status.fault with
    | true => exact ⟨s, by rw [startStep_of_not_enabled (.inl hf)], rfl, .inl hf⟩
    | false =>
      cases hq : s.fifo with
      | nil =>
        have hdone : s.turnsLeft = 0 := State.turnsLeft_eq_zero.2 ⟨hq, hslot⟩
        exact ⟨s, by rw [startStep_of_not_enabled (.inr hq)], rfl, .inr ⟨rfl, by rw [hdone], rfl⟩⟩
      | cons w queue =>
        exact ⟨_, congrArg _ (startStep_of_head hf hq), rfl, .inr ⟨rfl, start_turnsLeft_finalCount hslot hq⟩⟩

theorem core_run_succ {s t : State} (h : step s = .next t) (n : Nat) :
    Sys2Proof.core.run (n + 1) s = Sys2Proof.core.run n t := by
  have hcore : Sys2Proof.core.step s = .next t := h
  simp only [Host.Core.run, hcore]

/-- With an exhausted schedule every step of a run is the ENGINE's. The run ends faulted, or it met no fault; then,
given turns enough, nothing is outstanding and every command was counted. -/
theorem run_drains (n : Nat) {s : State} (hi : s.inputs = []) (hn : s.status.fault = true ∨ s.turnsLeft ≤ n) :
    ∃ t : State, Sys2Proof.core.run n s = .next t ∧ (t.status.fault = true ∨
      s.status.fault = false ∧ t.turnsLeft = 0 ∧ t.finalCount = s.finalCount) := by
  induction n generalizing s with
  | zero =>
    refine ⟨s, rfl, ?_⟩
    cases hf : s.status.fault with
    | true => exact .inl rfl
    | false => exact .inr ⟨rfl, Nat.le_zero.1 (hn.resolve_left (by simp [hf])), rfl⟩
  | succ n ih =>
    obtain ⟨s', hs', hinputs, hprogress⟩ := engineStep_progress s
    have hn' : s'.status.fault = true ∨ s'.turnsLeft ≤ n := hprogress.imp_right fun ⟨hf, hturns, _⟩ => by
      have hle : s.turnsLeft ≤ n + 1 := hn.resolve_left (by simp [hf])
      omega
    obtain ⟨t, ht, hend⟩ := ih (hinputs.trans hi) hn'
    refine ⟨t, (core_run_succ ((step_of_no_inputs hi).trans hs') n).trans ht, ?_⟩
    obtain hf | ⟨hf', hdone, hcount⟩ := hend
    · exact .inl hf
    · obtain ⟨hf, -, hcount'⟩ := hprogress.resolve_left (by simp [hf'])
      exact .inr ⟨hf, hdone, hcount.trans hcount'⟩

/-- Settles O7: the turns of the statement are at least those left (`run_drains`); a state that is faulted or has
nothing outstanding is not BUSY. -/
theorem acceptedCommandsFinish : Obligations.AcceptedCommandsFinish := by
  intro s hi
  obtain ⟨t, ht, hend⟩ := run_drains (2 * s.qcount + 1) hi (.inr s.turnsLeft_le)
  refine ⟨t, ht, ?_⟩
  obtain hf | ⟨-, hdone, hcount⟩ := hend
  · exact ⟨by simp [State.busy, hf], fun hno => by simp [hf] at hno⟩
  · obtain ⟨hfifo, hslot⟩ := State.turnsLeft_eq_zero.1 hdone
    refine ⟨by simp [State.busy, State.qcount, hfifo, hslot], fun _ => ⟨hfifo, hslot, ?_⟩⟩
    have hnone : t.finalCount = t.cmdCount := by
      simp [State.finalCount, State.outstanding, State.qcount, hfifo, hslot]
    exact hnone.symm.trans hcount

end Sys2Proof.Machine
end
